-- ==== Sys2Proof/Word.lean ====
section
/-! DEFINITION. The words of the block: bytes, 32-bit words and the bit fields of fixed width (00_scope.md R10, R17). -/

namespace Sys2Proof

/-- A raw byte, 8 bits (R17). -/
abbrev Byte := BitVec 8

/-- A UMP word, 32 bits (R17). -/
abbrev Word := BitVec 32

/-- A group or a channel, 4 bits (R11). -/
abbrev U4 := BitVec 4

/-- A 7-bit data value (R10). -/
abbrev U7 := BitVec 7

/-- A note velocity magnitude or note attribute data, 16 bits (R10, R56). -/
abbrev U16 := BitVec 16

/-- A full-resolution value, 32 bits (R10, R56). -/
abbrev U32 := BitVec 32

end Sys2Proof
end

