-- ==== Sys2Proof/Machine/Bits.lean ====
section
/-! DEFINITION. Bit fields and byte order: where the bytes of a word and the fields of a header stand (20_memory.md R103,
00_scope.md R20 and R21, 30_encoding.md R165 and R166). -/

namespace Sys2Proof.Machine

/-! ## Bytes and nibbles -/

/-- The byte with high nibble `hi` and low nibble `lo`: `(hi << 4) | lo` (R141, R150). -/
def byteOf (hi lo : U4) : Byte := hi ++ lo

/-- Bits 7:4 of a byte (R165). -/
def hi4 (b : Byte) : U4 := b.extractLsb' 4 4

/-- Bits 3:0 of a byte (R165). -/
def lo4 (b : Byte) : U4 := b.extractLsb' 0 4

/-- Whether a byte is a 7-bit value, bit 7 = 0 (R140, R172). -/
def is7 (b : Byte) : Bool := decide (b.toNat < 0x80)

/-- A 7-bit value as a whole byte, bit 7 = 0 (`zext_8`, R20). -/
def byte7 (v : U7) : Byte := v.setWidth 8

/-- The low seven bits of a byte, the 7-bit field a checked byte holds. -/
def low7 (b : Byte) : U7 := b.setWidth 7

/-! ## Words -/

/-- `word(b0, b1, b2, b3)`: b0 is bits 31:24 (R21, R103). -/
def word4 (b0 b1 b2 b3 : Byte) : Word := b0 ++ b1 ++ b2 ++ b3

/-- `hi16 : lo16` (R21). -/
def word16 (hi lo : U16) : Word := hi ++ lo

/-- Byte 0 of a word, bits 31:24 (R103). -/
def byte0 (w : Word) : Byte := w.extractLsb' 24 8

/-- Byte 1 of a word, bits 23:16 (R103). -/
def byte1 (w : Word) : Byte := w.extractLsb' 16 8

/-- Byte 2 of a word, bits 15:8 (R103). -/
def byte2 (w : Word) : Byte := w.extractLsb' 8 8

/-- Byte 3 of a word, bits 7:0 (R103). -/
def byte3 (w : Word) : Byte := w.extractLsb' 0 8

/-- Bits 31:16 of a word. -/
def hi16 (w : Word) : U16 := w.extractLsb' 16 16

/-- Bits 15:0 of a word. -/
def lo16 (w : Word) : U16 := w.extractLsb' 0 16

/-- The message type of a packet's first word, `w1[31:28]` (R150). -/
def msgType (w1 : Word) : U4 := hi4 (byte0 w1)

/-- The group of a packet's first word, `w1[27:24]` (R150, R165). -/
def groupOf (w1 : Word) : U4 := lo4 (byte0 w1)

/-- The status nibble of a packet's first word, `w1[23:20]` (R165, R153). -/
def statusOf (w1 : Word) : U4 := hi4 (byte1 w1)

/-- The channel of MT 0x2 and MT 0x4, or the byte count of MT 0x3: `w1[19:16]` (R165, R153). -/
def channelOf (w1 : Word) : U4 := lo4 (byte1 w1)

/-- The first byte of a UMP word: `(messageType << 4) | group` (R150). -/
def headByte (mt group : U4) : Byte := byteOf mt group

/-! ## The 14-bit pitch bend value -/

/-- The least significant seven bits, `v[6:0]`, the first data byte (R105, R166). -/
def bendLsb (v : Nat) : Byte := BitVec.ofNat 8 (v % 2 ^ 7)

/-- The most significant seven bits, `v[13:7]` (R166). -/
def bendMsb (v : Nat) : Byte := BitVec.ofNat 8 (v / 2 ^ 7)

/-- `(msb << 7) | lsb` of two 7-bit data bytes (R166). -/
def bendJoin (lsb msb : Byte) : Nat := msb.toNat * 2 ^ 7 + lsb.toNat

end Sys2Proof.Machine
end

