-- ==== Sys2Proof/Config.lean ====
section
/-! DEFINITION. What the spec fixes for every instance of the block, and the default of its one open parameter (00_scope.md section 3). -/

namespace Sys2Proof.Config

/-- Data bytes in one SysEx7 packet at most (R12). -/
abbrev packetCapacity : Nat := 6

/-- Number of groups, and so of reassembly contexts (R11, R16). -/
abbrev groups : Nat := 16

/-- The least value `P_SX_MAX` may be given when a model fixes it (R13). -/
abbrev leastSxMax : Nat := 6

/-- `P_SX_MAX` as the spec leaves it: OPEN, default unbounded (R13, 92_eei_decisions.md D20). -/
abbrev defaultSxMax : Option Nat := none

/-- The default separator of HEX_FORMAT, one ASCII space (R580). -/
abbrev defaultSeparator : List Byte := [0x20#8]

/-- The default of `incStart` and `incEnd` of M1_TOBYTES (R300). -/
abbrev defaultFraming : Bool := true

/-- The default group of M1_FROMBYTES (R301). -/
abbrev defaultGroup : U4 := 0#4

end Sys2Proof.Config
end

