-- ==== Sys2Proof/Syntax.lean ====
section
/-! DEFINITION. The values that flow through the ports (10_state.md section 2), the raw operands of a request, and the
instructions: one constructor for each row of opcode_table.json. -/

namespace Sys2Proof

/-! ## Value types -/

/-- The widths of bounded integers (R10). -/
inductive Width where
  | w4 | w7 | w8 | w14 | w16 | w32
deriving DecidableEq, Repr

/-- The four validated value types (R56). -/
inductive VType where
  | vel | amt | ccv | pbv
deriving DecidableEq, Repr

/-- The UMP protocol version (R14, R71). -/
inductive Protocol where
  | p1 | p2
deriving DecidableEq, Repr

/-- The result of a comparison (R71). -/
inductive Cmp where
  | lt | eq | gt
deriving DecidableEq, Repr

/-- The bank field of a program change (R62). -/
inductive Bank where
  | noBank
  | bank (msb lsb : U7)
deriving DecidableEq, Repr

/-- `ManufacturerID` (R70); the range of the one-byte form is `ManufacturerId.wf`. -/
inductive ManufacturerId where
  | one (id : U7)
  | three (b1 b2 : U7)
deriving DecidableEq, Repr

/-- The kind of a Universal SysEx message (R69). -/
inductive UniversalKind where
  | nonRealtime | realtime
deriving DecidableEq, Repr

/-- The twelve kinds of event (R57). -/
inductive Kind where
  | noteOff | noteOn | polyPressure | controlChange | programChange | channelPressure | pitchBend
  | pncRegistered | pncAssignable | tuneRequest | sysex7 | universalSysex7
deriving DecidableEq, Repr

/-- An Event (R57 to R69). A validated value is stored as its one magnitude, the MIDI 2.0 view (R56): 16 bits for
VEL, 32 bits for AMT, CCV and PBV. -/
inductive Event where
  | noteOff (group channel : U4) (note : U7) (velocity : U16) (attrType : Byte) (attrData : U16)
  | noteOn (group channel : U4) (note : U7) (velocity : U16) (attrType : Byte) (attrData : U16)
  | polyPressure (group channel : U4) (note : U7) (amount : U32)
  | controlChange (group channel : U4) (controller : U7) (value : U32)
  | programChange (group channel : U4) (program : U7) (bank : Bank)
  | channelPressure (group channel : U4) (amount : U32)
  | pitchBend (group channel : U4) (value : U32)
  | pncRegistered (group channel : U4) (note : U7) (index : Byte) (value : U32)
  | pncAssignable (group channel : U4) (note : U7) (index : Byte) (value : U32)
  | tuneRequest (group : U4)
  | sysex7 (group : U4) (manufacturer : ManufacturerId) (data : List U7)
  | universalSysex7 (group : U4) (kind : UniversalKind) (deviceId subId1 subId2 : U7) (data : List U7)
deriving DecidableEq, Repr

/-- A 64-bit UMP packet, `w1` first (R71, R102). -/
structure Packet where
  w1 : Word
  w2 : Word
deriving DecidableEq, Repr

/-! ## Raw operands of EV_MAKE -/

/-- A validated value as EV_MAKE takes it: `m1:v` or `m2:x` (R231). -/
inductive RawValue where
  | m1 (v : Int)
  | m2 (x : Int)
deriving DecidableEq, Repr

/-- A note or controller number as EV_MAKE takes it: a raw integer or an already-built U7 (R232). -/
inductive RawNumber where
  | raw (v : Int)
  | typed (n : U7)
deriving DecidableEq, Repr

/-- A program-change bank as EV_MAKE takes it (R231). -/
inductive RawBank where
  | noBank
  | bank (msb lsb : Int)
deriving DecidableEq, Repr

/-- A manufacturer ID as EV_MAKE takes it (R231). -/
inductive RawManufacturer where
  | one (id : Int)
  | three (b1 b2 : Int)
deriving DecidableEq, Repr

/-- The tag and raw fields of EV_MAKE, in the order of R231; `none` is an omitted field that has a default. -/
inductive RawEvent where
  | noteOff (group channel : Int) (note : RawNumber) (velocity : RawValue) (attrType attrData : Option Int)
  | noteOn (group channel : Int) (note : RawNumber) (velocity : RawValue) (attrType attrData : Option Int)
  | polyPressure (group channel : Int) (note : RawNumber) (amount : RawValue)
  | controlChange (group channel : Int) (controller : RawNumber) (value : RawValue)
  | programChange (group channel program : Int) (bank : Option RawBank)
  | channelPressure (group channel : Int) (amount : RawValue)
  | pitchBend (group channel : Int) (value : RawValue)
  | pncRegistered (group channel : Int) (note : RawNumber) (index value : Int)
  | pncAssignable (group channel : Int) (note : RawNumber) (index value : Int)
  | tuneRequest (group : Int)
  | sysex7 (group : Int) (manufacturer : RawManufacturer) (data : List Int)
  | universalSysex7 (group : Int) (kind : UniversalKind) (deviceId subId1 subId2 : Int) (data : List Int)
deriving DecidableEq, Repr

/-- The selector of SX_REASM_RESET: one group or ALL (R522). -/
inductive ReasmSel where
  | all
  | group (g : U4)
deriving DecidableEq, Repr

/-! ## Instructions -/

/-- One constructor for each row of opcode_table.json: the 29 commands of R134 and the 30 wire forms.
An `Option` operand that is `none` is omitted and takes its default (R131). A U<W> operand of a bounded-integer or
validated-value command is a natural that `Instr.wf` holds to its width (R55, R210).
A wire form is the received message: its fields are the message's own bits, reserved bits included, and a byte that
holds a 7-bit field is a whole byte, since the decoder is what checks it (R172). The group of a MIDI 1.0 message is
that of M1_FROMBYTES (R301), the bytes carry none. -/
inductive Instr where
  -- FM: bounded integers
  | biFail (w : Width) (v : Int)
  | biExact (w : Width) (v : Int)
  | biClamp (w : Width) (v : Int)
  | biTrunc (w : Width) (v : Int)
  | biAdd (w : Width) (a b : Nat)
  | biSub (w : Width) (a b : Nat)
  | biMul (w : Width) (a b : Nat)
  | biDiv (w : Width) (a b : Nat)
  | biRem (w : Width) (a b : Nat)
  | biCmp (w : Width) (a b : Nat)
  -- FM: validated values and events
  | vvFromM1 (t : VType) (v : Nat)
  | vvFromM2 (t : VType) (x : Nat)
  | vvViewM1 (t : VType) (mag : Nat)
  | vvViewM2 (t : VType) (mag : Nat)
  | evMake (raw : RawEvent)
  -- BS
  | m1ToBytes (e : Event) (incStart incEnd : Option Bool)
  | m1FromBytes (s : List Byte) (group : Option U4)
  -- WP
  | umpToWords (e : Event) (p : Protocol)
  | umpFromWords (ws : List Word)
  -- SX
  | sxFrame (e : Event)
  | sxParse (d : List Byte) (group : U4)
  | sxChunk (d : List U7) (group : U4)
  | sxUnchunk (ps : List Packet)
  | sxSegLoad (d : List U7) (group : U4)
  | sxSegNext
  | sxReasmPush (w1 w2 : Word)
  | sxReasmReset (sel : Option ReasmSel)
  -- DG and all units
  | hexFormat (s : List Byte) (sep : Option (List Byte))
  | reset
  -- wire forms: MIDI 1.0 byte messages
  | m1NoteOff (group : Option U4) (channel : U4) (note velocity : Byte)
  | m1NoteOn (group : Option U4) (channel : U4) (note velocity : Byte)
  | m1PolyPressure (group : Option U4) (channel : U4) (note amount : Byte)
  | m1ControlChange (group : Option U4) (channel : U4) (controller value : Byte)
  | m1ProgramChange (group : Option U4) (channel : U4) (program : Byte)
  | m1ChannelPressure (group : Option U4) (channel : U4) (amount : Byte)
  | m1PitchBend (group : Option U4) (channel : U4) (lsb msb : Byte)
  | m1TuneRequest (group : Option U4)
  | m1Sysex (group : Option U4) (rest : List Byte)
  -- wire forms: UMP message type 0x1
  | ump1TuneRequest (group : U4) (reserved : U16)
  -- wire forms: UMP message type 0x2
  | ump2NoteOff (group channel : U4) (note velocity : Byte)
  | ump2NoteOn (group channel : U4) (note velocity : Byte)
  | ump2PolyPressure (group channel : U4) (note amount : Byte)
  | ump2ControlChange (group channel : U4) (controller value : Byte)
  | ump2ProgramChange (group channel : U4) (program reserved : Byte)
  | ump2ChannelPressure (group channel : U4) (amount reserved : Byte)
  | ump2PitchBend (group channel : U4) (lsb msb : Byte)
  -- wire forms: UMP message type 0x4
  | ump4PncRegistered (group channel : U4) (note index : Byte) (value : U32)
  | ump4PncAssignable (group channel : U4) (note index : Byte) (value : U32)
  | ump4NoteOff (group channel : U4) (note attrType : Byte) (velocity attrData : U16)
  | ump4NoteOn (group channel : U4) (note attrType : Byte) (velocity attrData : U16)
  | ump4PolyPressure (group channel : U4) (note reserved : Byte) (amount : U32)
  | ump4ControlChange (group channel : U4) (controller reserved : Byte) (value : U32)
  | ump4ProgramChange (group channel : U4) (reserved options program reserved2 bankMsb bankLsb : Byte)
  | ump4ChannelPressure (group channel : U4) (reserved : U16) (amount : U32)
  | ump4PitchBend (group channel : U4) (reserved : U16) (value : U32)
  -- wire forms: UMP message type 0x3
  | ump3Complete (group count : U4) (d0 d1 d2 d3 d4 d5 : Byte)
  | ump3Start (group count : U4) (d0 d1 d2 d3 d4 d5 : Byte)
  | ump3Continue (group count : U4) (d0 d1 d2 d3 d4 d5 : Byte)
  | ump3End (group count : U4) (d0 d1 d2 d3 d4 d5 : Byte)
deriving DecidableEq, Repr

/-! ## What is presented on the command port -/

/-- The 29 commands of the command map (R134); their opcodes are `Op.code`. -/
inductive Op where
  | biFail | biExact | biClamp | biTrunc | biAdd | biSub | biMul | biDiv | biRem | biCmp
  | vvFromM1 | vvFromM2 | vvViewM1 | vvViewM2 | evMake
  | m1ToBytes | m1FromBytes | umpToWords | umpFromWords
  | sxFrame | sxParse | sxChunk | sxUnchunk | sxSegLoad | sxSegNext | sxReasmPush | sxReasmReset
  | hexFormat | reset
deriving DecidableEq, Repr

/-- A raw field of EV_MAKE as it stands in a request; `omitted` marks a field left out before one that is given. -/
inductive RawField where
  | int (v : Int)
  | typed (n : U7)
  | value (v : RawValue)
  | bank (b : RawBank)
  | manufacturer (m : RawManufacturer)
  | universal (k : UniversalKind)
  | data (vs : List Int)
  | omitted
deriving DecidableEq, Repr

/-- An operand as it is presented, before the command boundary has checked its type (R73, R130). A number of any width
is an integer; a sequence of bytes, U7s or words is a sequence of integers. -/
inductive Operand where
  | int (v : Int)
  | ints (vs : List Int)
  | vtype (t : VType)
  | validated (t : VType) (mag : Int)
  | event (e : Event)
  | protocol (p : Protocol)
  | packets (ps : List (Int × Int))
  | fields (fs : List RawField)
  | all
  | omitted
deriving DecidableEq, Repr

/-- What is presented to the block: a request (R130), or a received message that stands for the request which hands it
to its decoder (70_reset_and_hazards.md R704 duties 2 to 4; assumption 5). -/
inductive Input where
  | command (opcode : Byte) (operands : List Operand)
  | midi1 (s : List Byte) (group : Option U4)
  | ump (ws : List Word)
deriving DecidableEq, Repr

/-- Why the command boundary refuses a request (R606). -/
inductive Rejection where
  /-- The opcode is in no row of the command map (R132). -/
  | unknownOpcode (opcode : Byte)
  /-- An operand is missing, supernumerary or not of its type (R73). -/
  | illTyped (opcode : Byte)
deriving DecidableEq, Repr

end Sys2Proof
end

