-- ==== Sys2Proof/Machine/Operands.lean ====
section
/-! DEFINITION. Operand types: the ranges of bounded integers, the resolutions of validated values, well-formed events, event
kinds and tags, and the defaults of omitted operands (10_state.md section 2, 30_encoding.md R131 and R134). -/

namespace Sys2Proof

/-! ## Bounded integers -/

/-- The number of bits of a width (R10). -/
def Width.bits : Width → Nat
  | .w4 => 4 | .w7 => 7 | .w8 => 8 | .w14 => 14 | .w16 => 16 | .w32 => 32

/-- The greatest value of a width, `2^W − 1` (R55). -/
def Width.max (w : Width) : Nat := 2 ^ w.bits - 1

/-- Whether `v` is a `U<W>` (R55). -/
def Width.fits (w : Width) (v : Nat) : Bool := decide (v ≤ w.max)

/-- The width a number names, if it names one (R10); `BI_FAIL 5, 3` names none. -/
def Width.ofInt? (v : Int) : Option Width :=
  [Width.w4, .w7, .w8, .w14, .w16, .w32].find? fun w => v == w.bits

/-! ## Validated values -/

/-- The MIDI 1.0 resolution of a validated type, N bits (R56). -/
def VType.m1Width : VType → Width
  | .vel => .w7 | .amt => .w7 | .ccv => .w7 | .pbv => .w14

/-- The MIDI 2.0 resolution of a validated type, M bits (R56, 90_conflicts.md C2). -/
def VType.m2Width : VType → Width
  | .vel => .w16 | .amt => .w32 | .ccv => .w32 | .pbv => .w32

/-- Only pitch bend is centered (R56). -/
def VType.centered : VType → Bool
  | .vel => false | .amt => false | .ccv => false | .pbv => true

/-! ## Events -/

/-- The range of a one-byte manufacturer ID, 0x01 to 0x7D; a three-byte ID has no range beyond its bytes (R70). -/
def ManufacturerId.wf : ManufacturerId → Bool
  | .one id => decide (0x01 ≤ id.toNat) && decide (id.toNat ≤ 0x7D)
  | .three _ _ => true

/-- No Event holds out-of-range fields (R57); every range but that of R70 is the field's width. -/
def Event.wf : Event → Bool
  | .noteOff _ _ _ _ _ _ => true
  | .noteOn _ _ _ _ _ _ => true
  | .polyPressure _ _ _ _ => true
  | .controlChange _ _ _ _ => true
  | .programChange _ _ _ _ => true
  | .channelPressure _ _ _ => true
  | .pitchBend _ _ _ => true
  | .pncRegistered _ _ _ _ _ => true
  | .pncAssignable _ _ _ _ _ => true
  | .tuneRequest _ => true
  | .sysex7 _ manufacturer _ => manufacturer.wf
  | .universalSysex7 _ _ _ _ _ _ => true

/-- The kind of an Event (R57). -/
def Event.kind : Event → Kind
  | .noteOff _ _ _ _ _ _ => .noteOff
  | .noteOn _ _ _ _ _ _ => .noteOn
  | .polyPressure _ _ _ _ => .polyPressure
  | .controlChange _ _ _ _ => .controlChange
  | .programChange _ _ _ _ => .programChange
  | .channelPressure _ _ _ => .channelPressure
  | .pitchBend _ _ _ => .pitchBend
  | .pncRegistered _ _ _ _ _ => .pncRegistered
  | .pncAssignable _ _ _ _ _ => .pncAssignable
  | .tuneRequest _ => .tuneRequest
  | .sysex7 _ _ _ => .sysex7
  | .universalSysex7 _ _ _ _ _ _ => .universalSysex7

/-- The group every Event carries (R58 to R69). -/
def Event.group : Event → U4
  | .noteOff g _ _ _ _ _ => g
  | .noteOn g _ _ _ _ _ => g
  | .polyPressure g _ _ _ => g
  | .controlChange g _ _ _ => g
  | .programChange g _ _ _ => g
  | .channelPressure g _ _ => g
  | .pitchBend g _ _ => g
  | .pncRegistered g _ _ _ _ => g
  | .pncAssignable g _ _ _ _ => g
  | .tuneRequest g => g
  | .sysex7 g _ _ => g
  | .universalSysex7 g _ _ _ _ _ => g

/-- The two SysEx kinds, the operands of SX_FRAME (R134, R500). -/
def Event.isSysEx (e : Event) : Bool := e.kind == .sysex7 || e.kind == .universalSysex7

/-- The tag of each kind (R57). -/
def Kind.tag : Kind → Nat
  | .noteOff => 0x0 | .noteOn => 0x1 | .polyPressure => 0x2 | .controlChange => 0x3
  | .programChange => 0x4 | .channelPressure => 0x5 | .pitchBend => 0x6
  | .pncRegistered => 0x7 | .pncAssignable => 0x8 | .tuneRequest => 0x9
  | .sysex7 => 0xA | .universalSysex7 => 0xB

/-- Every kind, in the order of the tags. -/
def Kind.all : List Kind :=
  [.noteOff, .noteOn, .polyPressure, .controlChange, .programChange, .channelPressure, .pitchBend,
   .pncRegistered, .pncAssignable, .tuneRequest, .sysex7, .universalSysex7]

/-- The kind a tag names, if it names one (R57). -/
def Kind.ofTag? (t : Int) : Option Kind := Kind.all.find? fun k => t == k.tag

/-- The kind of a raw event. -/
def RawEvent.kind : RawEvent → Kind
  | .noteOff _ _ _ _ _ _ => .noteOff
  | .noteOn _ _ _ _ _ _ => .noteOn
  | .polyPressure _ _ _ _ => .polyPressure
  | .controlChange _ _ _ _ => .controlChange
  | .programChange _ _ _ _ => .programChange
  | .channelPressure _ _ _ => .channelPressure
  | .pitchBend _ _ _ => .pitchBend
  | .pncRegistered _ _ _ _ _ => .pncRegistered
  | .pncAssignable _ _ _ _ _ => .pncAssignable
  | .tuneRequest _ => .tuneRequest
  | .sysex7 _ _ _ => .sysex7
  | .universalSysex7 _ _ _ _ _ _ => .universalSysex7

/-! ## Omitted operands -/

/-- The framing flag an operand gives, 1 when omitted (R131, R300). -/
def framing (flag : Option Bool) : Bool := flag.getD Config.defaultFraming

/-- The group an operand gives, 0 when omitted (R131, R301). -/
def groupOrDefault (g : Option U4) : U4 := g.getD Config.defaultGroup

/-- The separator an operand gives, one space when omitted (R131, R580). -/
def separatorOrDefault (sep : Option (List Byte)) : List Byte := sep.getD Config.defaultSeparator

/-- The selector an operand gives, ALL when omitted (R131, R522). -/
def selOrDefault (sel : Option ReasmSel) : ReasmSel := sel.getD .all

end Sys2Proof
end

