-- ==== Sys2Proof/WellFormed.lean ====
section
/-! DEFINITION. Well-formed instructions: every operand has its type (10_state.md R73). Groups, channels, bytes, words and
7-bit data carry their width in their Lean type; what is left to check are the widths a request names and the one-byte
manufacturer ID. -/

namespace Sys2Proof

/-- Whether every operand of an instruction has the type its rule names (R73, R210). A wire form is well formed
whatever its bits: a bad bit in it is wire data, which the decoder judges (R171, R172). -/
def Instr.wf : Instr → Bool
  | .biFail _ _ => true
  | .biExact _ _ => true
  | .biClamp _ _ => true
  | .biTrunc _ _ => true
  | .biAdd w a b => w.fits a && w.fits b
  | .biSub w a b => w.fits a && w.fits b
  | .biMul w a b => w.fits a && w.fits b
  | .biDiv w a b => w.fits a && w.fits b
  | .biRem w a b => w.fits a && w.fits b
  | .biCmp w a b => w.fits a && w.fits b
  | .vvFromM1 t v => t.m1Width.fits v
  | .vvFromM2 t x => t.m2Width.fits x
  | .vvViewM1 t mag => t.m2Width.fits mag
  | .vvViewM2 t mag => t.m2Width.fits mag
  | .evMake _ => true
  | .m1ToBytes e _ _ => e.wf
  | .m1FromBytes _ _ => true
  | .umpToWords e _ => e.wf
  | .umpFromWords _ => true
  | .sxFrame e => e.wf && e.isSysEx
  | .sxParse _ _ => true
  | .sxChunk _ _ => true
  | .sxUnchunk _ => true
  | .sxSegLoad _ _ => true
  | .sxSegNext => true
  | .sxReasmPush _ _ => true
  | .sxReasmReset _ => true
  | .hexFormat _ _ => true
  | .reset => true
  | .m1NoteOff _ _ _ _ => true
  | .m1NoteOn _ _ _ _ => true
  | .m1PolyPressure _ _ _ _ => true
  | .m1ControlChange _ _ _ _ => true
  | .m1ProgramChange _ _ _ => true
  | .m1ChannelPressure _ _ _ => true
  | .m1PitchBend _ _ _ _ => true
  | .m1TuneRequest _ => true
  | .m1Sysex _ _ => true
  | .ump1TuneRequest _ _ => true
  | .ump2NoteOff _ _ _ _ => true
  | .ump2NoteOn _ _ _ _ => true
  | .ump2PolyPressure _ _ _ _ => true
  | .ump2ControlChange _ _ _ _ => true
  | .ump2ProgramChange _ _ _ _ => true
  | .ump2ChannelPressure _ _ _ _ => true
  | .ump2PitchBend _ _ _ _ => true
  | .ump4PncRegistered _ _ _ _ _ => true
  | .ump4PncAssignable _ _ _ _ _ => true
  | .ump4NoteOff _ _ _ _ _ _ => true
  | .ump4NoteOn _ _ _ _ _ _ => true
  | .ump4PolyPressure _ _ _ _ _ => true
  | .ump4ControlChange _ _ _ _ _ => true
  | .ump4ProgramChange _ _ _ _ _ _ _ _ => true
  | .ump4ChannelPressure _ _ _ _ => true
  | .ump4PitchBend _ _ _ _ => true
  | .ump3Complete _ _ _ _ _ _ _ _ => true
  | .ump3Start _ _ _ _ _ _ _ _ => true
  | .ump3Continue _ _ _ _ _ _ _ _ => true
  | .ump3End _ _ _ _ _ _ _ _ => true

end Sys2Proof
end

