-- ==== Sys2Proof/Decode.lean ====
section
/-! DEFINITION. The command boundary and the wire-form decoder (30_encoding.md). A request is an opcode and typed operands
(R130, R134); the boundary refuses an unknown opcode and an ill-typed operand by name (R132, R73, R606). A received byte or
word message is read by the bits of its form (R142, R151 to R155). Then the encoder, written from the same tables. -/

namespace Sys2Proof

/-! ## The command map (R134) -/

/-- The opcode of each command (R134). -/
def Op.code : Op → Byte
  | .biFail => 0x01 | .biExact => 0x02 | .biClamp => 0x03 | .biTrunc => 0x04
  | .biAdd => 0x05 | .biSub => 0x06 | .biMul => 0x07 | .biDiv => 0x08 | .biRem => 0x09 | .biCmp => 0x0A
  | .vvFromM1 => 0x10 | .vvFromM2 => 0x11 | .vvViewM1 => 0x12 | .vvViewM2 => 0x13
  | .evMake => 0x18
  | .m1ToBytes => 0x20 | .m1FromBytes => 0x21
  | .umpToWords => 0x30 | .umpFromWords => 0x31
  | .sxFrame => 0x40 | .sxParse => 0x41 | .sxChunk => 0x42 | .sxUnchunk => 0x43
  | .sxSegLoad => 0x44 | .sxSegNext => 0x45 | .sxReasmPush => 0x46 | .sxReasmReset => 0x47
  | .hexFormat => 0x50
  | .reset => 0x7F

/-- Every command, in the order of R134. -/
def Op.all : List Op :=
  [.biFail, .biExact, .biClamp, .biTrunc, .biAdd, .biSub, .biMul, .biDiv, .biRem, .biCmp,
   .vvFromM1, .vvFromM2, .vvViewM1, .vvViewM2, .evMake,
   .m1ToBytes, .m1FromBytes, .umpToWords, .umpFromWords,
   .sxFrame, .sxParse, .sxChunk, .sxUnchunk, .sxSegLoad, .sxSegNext, .sxReasmPush, .sxReasmReset,
   .hexFormat, .reset]

/-- The command an opcode selects, if it selects one (R132). -/
def Op.ofCode? (c : Byte) : Option Op := Op.all.find? fun o => o.code == c

/-- The number of operands of each command (R134). -/
def Op.arity : Op → Nat
  | .biFail => 2 | .biExact => 2 | .biClamp => 2 | .biTrunc => 2
  | .biAdd => 3 | .biSub => 3 | .biMul => 3 | .biDiv => 3 | .biRem => 3 | .biCmp => 3
  | .vvFromM1 => 2 | .vvFromM2 => 2 | .vvViewM1 => 2 | .vvViewM2 => 2
  | .evMake => 2
  | .m1ToBytes => 3 | .m1FromBytes => 2
  | .umpToWords => 2 | .umpFromWords => 1
  | .sxFrame => 1 | .sxParse => 2 | .sxChunk => 2 | .sxUnchunk => 1
  | .sxSegLoad => 2 | .sxSegNext => 0 | .sxReasmPush => 2 | .sxReasmReset => 1
  | .hexFormat => 2
  | .reset => 0

/-! ## Type checks of one operand (R73) -/

/-- The unsigned `n`-bit value a number is, if it is one (R55). -/
def uInt? (n : Nat) (v : Int) : Option (BitVec n) :=
  if 0 ≤ v ∧ v < 2 ^ n then some (BitVec.ofNat n v.toNat) else none

/-- The sequence of unsigned `n`-bit values a sequence of numbers is, if every element is one. -/
def uList? (n : Nat) : List Int → Option (List (BitVec n))
  | [] => some []
  | v :: vs => do
    let x ← uInt? n v
    let xs ← uList? n vs
    some (x :: xs)

/-- The packets a sequence of pairs of numbers is, if every number is a U32 (R71). -/
def packetList? : List (Int × Int) → Option (List Packet)
  | [] => some []
  | p :: ps => do
    let w1 ← uInt? 32 p.1
    let w2 ← uInt? 32 p.2
    let qs ← packetList? ps
    some (⟨w1, w2⟩ :: qs)

/-- A raw integer (R73). -/
def int? : Operand → Option Int
  | .int v => some v
  | _ => none

/-- A width (R10). -/
def width? : Operand → Option Width
  | .int v => Width.ofInt? v
  | _ => none

/-- A bounded integer of width `w` (R55, R210). -/
def bounded? (w : Width) : Operand → Option Nat
  | .int v => if 0 ≤ v ∧ v ≤ w.max then some v.toNat else none
  | _ => none

/-- A validated type (R56). -/
def vtype? : Operand → Option VType
  | .vtype t => some t
  | _ => none

/-- A validated value of type `t`: a value of another validated type is ill typed (R73, R134). -/
def validated? (t : VType) : Operand → Option Nat
  | .validated t' mag => if t' = t ∧ 0 ≤ mag ∧ mag ≤ t.m2Width.max then some mag.toNat else none
  | _ => none

/-- An Event (R57). -/
def event? : Operand → Option Event
  | .event e => if e.wf then some e else none
  | _ => none

/-- A SysEx Event, the operand type of SX_FRAME (R134, R500). -/
def sysExEvent? : Operand → Option Event
  | .event e => if e.wf && e.isSysEx then some e else none
  | _ => none

/-- A protocol version (R71). -/
def protocol? : Operand → Option Protocol
  | .protocol p => some p
  | _ => none

/-- A group (R11). -/
def group? : Operand → Option U4
  | .int v => uInt? 4 v
  | _ => none

/-- One word (R73). -/
def word? : Operand → Option Word
  | .int v => uInt? 32 v
  | _ => none

/-- A sequence of unsigned `n`-bit values (R73). -/
def seq? (n : Nat) : Operand → Option (List (BitVec n))
  | .ints vs => uList? n vs
  | _ => none

/-- A sequence of packets (R71). -/
def packets? : Operand → Option (List Packet)
  | .packets ps => packetList? ps
  | _ => none

/-- A single bit (R134). -/
def bit? : Operand → Option Bool
  | .int v => if v = 0 then some false else if v = 1 then some true else none
  | _ => none

/-- A selector of SX_REASM_RESET, a group or ALL (R522). -/
def sel? : Operand → Option ReasmSel
  | .all => some .all
  | .int v => (uInt? 4 v).map .group
  | _ => none

/-- An operand with a default: omitted, or of its type (R131). -/
def optional? {α : Type} (f : Operand → Option α) : Operand → Option (Option α)
  | .omitted => some none
  | .int v => (f (.int v)).map some
  | .ints vs => (f (.ints vs)).map some
  | .vtype t => (f (.vtype t)).map some
  | .validated t m => (f (.validated t m)).map some
  | .event e => (f (.event e)).map some
  | .protocol p => (f (.protocol p)).map some
  | .packets ps => (f (.packets ps)).map some
  | .fields fs => (f (.fields fs)).map some
  | .all => (f .all).map some

/-! ## The raw fields of EV_MAKE (R231) -/

/-- A raw integer field. -/
def rawInt? : RawField → Option Int
  | .int v => some v
  | _ => none

/-- A raw group or channel; 0 when it is not written (95_test_vectors.md, notation; assumption 4). -/
def rawNibble? : RawField → Option Int
  | .int v => some v
  | .omitted => some 0
  | _ => none

/-- A raw integer field with a default. -/
def rawIntOpt? : RawField → Option (Option Int)
  | .int v => some (some v)
  | .omitted => some none
  | _ => none

/-- A note or controller number, raw or already built (R232). -/
def rawNumber? : RawField → Option RawNumber
  | .int v => some (.raw v)
  | .typed n => some (.typed n)
  | _ => none

/-- A validated value, `m1:v` or `m2:x`. -/
def rawValue? : RawField → Option RawValue
  | .value v => some v
  | _ => none

/-- A bank, NoBank when omitted. -/
def rawBank? : RawField → Option (Option RawBank)
  | .bank b => some (some b)
  | .omitted => some none
  | _ => none

/-- A manufacturer ID. -/
def rawManufacturer? : RawField → Option RawManufacturer
  | .manufacturer m => some m
  | _ => none

/-- The kind of a Universal SysEx message. -/
def rawUniversal? : RawField → Option UniversalKind
  | .universal k => some k
  | _ => none

/-- A SysEx data sequence; its elements are raw integers. -/
def rawData? : RawField → Option (List Int)
  | .data vs => some vs
  | _ => none

/-- The number of raw fields of each kind (R231). -/
def Kind.fieldCount : Kind → Nat
  | .noteOff => 6 | .noteOn => 6 | .polyPressure => 4 | .controlChange => 4 | .programChange => 4
  | .channelPressure => 3 | .pitchBend => 3 | .pncRegistered => 5 | .pncAssignable => 5
  | .tuneRequest => 1 | .sysex7 => 3 | .universalSysex7 => 6

/-- The `k`-th raw field of a list, omitted when the list ends before it. -/
def rawField (fs : List RawField) (k : Nat) : RawField := fs.getD k .omitted

/-- The raw event that a kind and its fields in the order of R231 are, if they have the types of that kind. -/
def rawEvent? (k : Kind) (fs : List RawField) : Option RawEvent :=
  if k.fieldCount < fs.length then none else
  match k with
  | .noteOff => do
    some (.noteOff (← rawNibble? (rawField fs 0)) (← rawNibble? (rawField fs 1)) (← rawNumber? (rawField fs 2))
      (← rawValue? (rawField fs 3)) (← rawIntOpt? (rawField fs 4)) (← rawIntOpt? (rawField fs 5)))
  | .noteOn => do
    some (.noteOn (← rawNibble? (rawField fs 0)) (← rawNibble? (rawField fs 1)) (← rawNumber? (rawField fs 2))
      (← rawValue? (rawField fs 3)) (← rawIntOpt? (rawField fs 4)) (← rawIntOpt? (rawField fs 5)))
  | .polyPressure => do
    some (.polyPressure (← rawNibble? (rawField fs 0)) (← rawNibble? (rawField fs 1)) (← rawNumber? (rawField fs 2))
      (← rawValue? (rawField fs 3)))
  | .controlChange => do
    some (.controlChange (← rawNibble? (rawField fs 0)) (← rawNibble? (rawField fs 1)) (← rawNumber? (rawField fs 2))
      (← rawValue? (rawField fs 3)))
  | .programChange => do
    some (.programChange (← rawNibble? (rawField fs 0)) (← rawNibble? (rawField fs 1)) (← rawInt? (rawField fs 2))
      (← rawBank? (rawField fs 3)))
  | .channelPressure => do
    some (.channelPressure (← rawNibble? (rawField fs 0)) (← rawNibble? (rawField fs 1)) (← rawValue? (rawField fs 2)))
  | .pitchBend => do
    some (.pitchBend (← rawNibble? (rawField fs 0)) (← rawNibble? (rawField fs 1)) (← rawValue? (rawField fs 2)))
  | .pncRegistered => do
    some (.pncRegistered (← rawNibble? (rawField fs 0)) (← rawNibble? (rawField fs 1)) (← rawNumber? (rawField fs 2))
      (← rawInt? (rawField fs 3)) (← rawInt? (rawField fs 4)))
  | .pncAssignable => do
    some (.pncAssignable (← rawNibble? (rawField fs 0)) (← rawNibble? (rawField fs 1)) (← rawNumber? (rawField fs 2))
      (← rawInt? (rawField fs 3)) (← rawInt? (rawField fs 4)))
  | .tuneRequest => do
    some (.tuneRequest (← rawNibble? (rawField fs 0)))
  | .sysex7 => do
    some (.sysex7 (← rawNibble? (rawField fs 0)) (← rawManufacturer? (rawField fs 1)) (← rawData? (rawField fs 2)))
  | .universalSysex7 => do
    some (.universalSysex7 (← rawNibble? (rawField fs 0)) (← rawUniversal? (rawField fs 1)) (← rawInt? (rawField fs 2))
      (← rawInt? (rawField fs 3)) (← rawInt? (rawField fs 4)) (← rawData? (rawField fs 5)))

/-- The tag operand and the fields operand of EV_MAKE (R230). -/
def evMake? (tag fields : Operand) : Option RawEvent :=
  match tag, fields with
  | .int t, .fields fs => (Kind.ofTag? t).bind fun k => rawEvent? k fs
  | _, _ => none

/-! ## Decoding -/

/-- The `k`-th operand of a request, omitted when the list ends before it (R131). -/
def arg (os : List Operand) (k : Nat) : Operand := os.getD k .omitted

/-- The instruction that a command and its operands are, if every operand has its type (R134). -/
def decodeOperands (op : Op) (os : List Operand) : Option Instr :=
  if op.arity < os.length then none else
  match op with
  | .biFail => do some (.biFail (← width? (arg os 0)) (← int? (arg os 1)))
  | .biExact => do some (.biExact (← width? (arg os 0)) (← int? (arg os 1)))
  | .biClamp => do some (.biClamp (← width? (arg os 0)) (← int? (arg os 1)))
  | .biTrunc => do some (.biTrunc (← width? (arg os 0)) (← int? (arg os 1)))
  | .biAdd => do let w ← width? (arg os 0); some (.biAdd w (← bounded? w (arg os 1)) (← bounded? w (arg os 2)))
  | .biSub => do let w ← width? (arg os 0); some (.biSub w (← bounded? w (arg os 1)) (← bounded? w (arg os 2)))
  | .biMul => do let w ← width? (arg os 0); some (.biMul w (← bounded? w (arg os 1)) (← bounded? w (arg os 2)))
  | .biDiv => do let w ← width? (arg os 0); some (.biDiv w (← bounded? w (arg os 1)) (← bounded? w (arg os 2)))
  | .biRem => do let w ← width? (arg os 0); some (.biRem w (← bounded? w (arg os 1)) (← bounded? w (arg os 2)))
  | .biCmp => do let w ← width? (arg os 0); some (.biCmp w (← bounded? w (arg os 1)) (← bounded? w (arg os 2)))
  | .vvFromM1 => do let t ← vtype? (arg os 0); some (.vvFromM1 t (← bounded? t.m1Width (arg os 1)))
  | .vvFromM2 => do let t ← vtype? (arg os 0); some (.vvFromM2 t (← bounded? t.m2Width (arg os 1)))
  | .vvViewM1 => do let t ← vtype? (arg os 0); some (.vvViewM1 t (← validated? t (arg os 1)))
  | .vvViewM2 => do let t ← vtype? (arg os 0); some (.vvViewM2 t (← validated? t (arg os 1)))
  | .evMake => do some (.evMake (← evMake? (arg os 0) (arg os 1)))
  | .m1ToBytes => do some (.m1ToBytes (← event? (arg os 0)) (← optional? bit? (arg os 1)) (← optional? bit? (arg os 2)))
  | .m1FromBytes => do some (.m1FromBytes (← seq? 8 (arg os 0)) (← optional? group? (arg os 1)))
  | .umpToWords => do some (.umpToWords (← event? (arg os 0)) (← protocol? (arg os 1)))
  | .umpFromWords => do some (.umpFromWords (← seq? 32 (arg os 0)))
  | .sxFrame => do some (.sxFrame (← sysExEvent? (arg os 0)))
  | .sxParse => do some (.sxParse (← seq? 8 (arg os 0)) (← group? (arg os 1)))
  | .sxChunk => do some (.sxChunk (← seq? 7 (arg os 0)) (← group? (arg os 1)))
  | .sxUnchunk => do some (.sxUnchunk (← packets? (arg os 0)))
  | .sxSegLoad => do some (.sxSegLoad (← seq? 7 (arg os 0)) (← group? (arg os 1)))
  | .sxSegNext => some .sxSegNext
  | .sxReasmPush => do some (.sxReasmPush (← word? (arg os 0)) (← word? (arg os 1)))
  | .sxReasmReset => do some (.sxReasmReset (← optional? sel? (arg os 0)))
  | .hexFormat => do some (.hexFormat (← seq? 8 (arg os 0)) (← optional? (seq? 8) (arg os 1)))
  | .reset => some .reset

/-- The command boundary: a request is an instruction, or it is refused by name (R606). -/
def decodeCommand (opcode : Byte) (os : List Operand) : Except Rejection Instr :=
  match Op.ofCode? opcode with
  | none => .error (.unknownOpcode opcode)
  | some op =>
    match decodeOperands op os with
    | none => .error (.illTyped opcode)
    | some i => .ok i

open Machine in
/-- A received MIDI 1.0 byte message: the wire form its first byte and its length select (R142, R175). Bytes that are no
whole message of a form stand for M1_FROMBYTES of them, which answers MALFORMED_WIRE_DATA (R170, R301; assumption 7). -/
def decodeMidi1 (s : List Byte) (g : Option U4) : Instr :=
  match s with
  | [b0] => if b0 = 0xF6#8 then .m1TuneRequest g else if b0 = 0xF0#8 then .m1Sysex g [] else .m1FromBytes s g
  | [b0, d1] =>
    match (hi4 b0).toNat with
    | 0xC => .m1ProgramChange g (lo4 b0) d1
    | 0xD => .m1ChannelPressure g (lo4 b0) d1
    | _ => if b0 = 0xF0#8 then .m1Sysex g [d1] else .m1FromBytes s g
  | [b0, d1, d2] =>
    match (hi4 b0).toNat with
    | 0x8 => .m1NoteOff g (lo4 b0) d1 d2
    | 0x9 => .m1NoteOn g (lo4 b0) d1 d2
    | 0xA => .m1PolyPressure g (lo4 b0) d1 d2
    | 0xB => .m1ControlChange g (lo4 b0) d1 d2
    | 0xE => .m1PitchBend g (lo4 b0) d1 d2
    | _ => if b0 = 0xF0#8 then .m1Sysex g [d1, d2] else .m1FromBytes s g
  | b0 :: rest => if b0 = 0xF0#8 then .m1Sysex g rest else .m1FromBytes s g
  | [] => .m1FromBytes s g

open Machine in
/-- A received UMP message: the wire form the message type, the status and the word count select (R150, R176). A two-word
MT 0x3 message is one packet for the reassembler, also with a status that is no packet status; every other sequence of
words stands for UMP_FROMWORDS of it (R171, R401; assumptions 6 and 7). -/
def decodeUmp (ws : List Word) : Instr :=
  match ws with
  | [w] =>
    match (msgType w).toNat with
    | 0x1 => if byte1 w = 0xF6#8 then .ump1TuneRequest (groupOf w) (lo16 w) else .umpFromWords ws
    | 0x2 =>
      match (statusOf w).toNat with
      | 0x8 => .ump2NoteOff (groupOf w) (channelOf w) (byte2 w) (byte3 w)
      | 0x9 => .ump2NoteOn (groupOf w) (channelOf w) (byte2 w) (byte3 w)
      | 0xA => .ump2PolyPressure (groupOf w) (channelOf w) (byte2 w) (byte3 w)
      | 0xB => .ump2ControlChange (groupOf w) (channelOf w) (byte2 w) (byte3 w)
      | 0xC => .ump2ProgramChange (groupOf w) (channelOf w) (byte2 w) (byte3 w)
      | 0xD => .ump2ChannelPressure (groupOf w) (channelOf w) (byte2 w) (byte3 w)
      | 0xE => .ump2PitchBend (groupOf w) (channelOf w) (byte2 w) (byte3 w)
      | _ => .umpFromWords ws
    | _ => .umpFromWords ws
  | [w1, w2] =>
    match (msgType w1).toNat with
    | 0x3 =>
      match (statusOf w1).toNat with
      | 0x0 => .ump3Complete (groupOf w1) (channelOf w1) (byte2 w1) (byte3 w1) (byte0 w2) (byte1 w2) (byte2 w2) (byte3 w2)
      | 0x1 => .ump3Start (groupOf w1) (channelOf w1) (byte2 w1) (byte3 w1) (byte0 w2) (byte1 w2) (byte2 w2) (byte3 w2)
      | 0x2 => .ump3Continue (groupOf w1) (channelOf w1) (byte2 w1) (byte3 w1) (byte0 w2) (byte1 w2) (byte2 w2) (byte3 w2)
      | 0x3 => .ump3End (groupOf w1) (channelOf w1) (byte2 w1) (byte3 w1) (byte0 w2) (byte1 w2) (byte2 w2) (byte3 w2)
      | _ => .sxReasmPush w1 w2
    | 0x4 =>
      match (statusOf w1).toNat with
      | 0x0 => .ump4PncRegistered (groupOf w1) (channelOf w1) (byte2 w1) (byte3 w1) w2
      | 0x1 => .ump4PncAssignable (groupOf w1) (channelOf w1) (byte2 w1) (byte3 w1) w2
      | 0x8 => .ump4NoteOff (groupOf w1) (channelOf w1) (byte2 w1) (byte3 w1) (hi16 w2) (lo16 w2)
      | 0x9 => .ump4NoteOn (groupOf w1) (channelOf w1) (byte2 w1) (byte3 w1) (hi16 w2) (lo16 w2)
      | 0xA => .ump4PolyPressure (groupOf w1) (channelOf w1) (byte2 w1) (byte3 w1) w2
      | 0xB => .ump4ControlChange (groupOf w1) (channelOf w1) (byte2 w1) (byte3 w1) w2
      | 0xC => .ump4ProgramChange (groupOf w1) (channelOf w1) (byte2 w1) (byte3 w1)
                 (byte0 w2) (byte1 w2) (byte2 w2) (byte3 w2)
      | 0xD => .ump4ChannelPressure (groupOf w1) (channelOf w1) (lo16 w1) w2
      | 0xE => .ump4PitchBend (groupOf w1) (channelOf w1) (lo16 w1) w2
      | _ => .umpFromWords ws
    | _ => .umpFromWords ws
  | _ => .umpFromWords ws

/-- What is presented to the block is an instruction, or is refused by name. -/
def decodeInput : Input → Except Rejection Instr
  | .command opcode os => decodeCommand opcode os
  | .midi1 s g => .ok (decodeMidi1 s g)
  | .ump ws => .ok (decodeUmp ws)

/-! ## Encoding -/

/-- A bit vector as a number. -/
def num {n : Nat} (v : BitVec n) : Int := v.toNat

/-- An optional operand of a request. -/
def optOperand {α : Type} (f : α → Operand) : Option α → Operand
  | none => .omitted
  | some a => f a

/-- A flag as an operand. -/
def bitOperand (b : Bool) : Operand := .int (if b then 1 else 0)

/-- A selector as an operand. -/
def selOperand : ReasmSel → Operand
  | .all => .all
  | .group g => .int (num g)

/-- A sequence as an operand. -/
def seqOperand {n : Nat} (vs : List (BitVec n)) : Operand := .ints (vs.map num)

/-- A raw note or controller number as a field. -/
def numberField : RawNumber → RawField
  | .raw v => .int v
  | .typed n => .typed n

/-- A raw integer with a default as a field. -/
def intOptField : Option Int → RawField
  | none => .omitted
  | some v => .int v

/-- A bank as a field. -/
def bankField : Option RawBank → RawField
  | none => .omitted
  | some b => .bank b

/-- The raw fields of an event in the order of R231. -/
def RawEvent.fields : RawEvent → List RawField
  | .noteOff g c n v aty ad => [.int g, .int c, numberField n, .value v, intOptField aty, intOptField ad]
  | .noteOn g c n v aty ad => [.int g, .int c, numberField n, .value v, intOptField aty, intOptField ad]
  | .polyPressure g c n a => [.int g, .int c, numberField n, .value a]
  | .controlChange g c n v => [.int g, .int c, numberField n, .value v]
  | .programChange g c p b => [.int g, .int c, .int p, bankField b]
  | .channelPressure g c a => [.int g, .int c, .value a]
  | .pitchBend g c v => [.int g, .int c, .value v]
  | .pncRegistered g c n i v => [.int g, .int c, numberField n, .int i, .int v]
  | .pncAssignable g c n i v => [.int g, .int c, numberField n, .int i, .int v]
  | .tuneRequest g => [.int g]
  | .sysex7 g m d => [.int g, .manufacturer m, .data d]
  | .universalSysex7 g k dev s1 s2 d => [.int g, .universal k, .int dev, .int s1, .int s2, .data d]

/-- A request of a command (R130). -/
def request (op : Op) (os : List Operand) : Input := .command op.code os

open Machine in
/-- The two words of an MT 0x3 packet with packet status `st` (R153). -/
def mt3Words (g st n : U4) (d0 d1 d2 d3 d4 d5 : Byte) : List Word :=
  [word4 (headByte 0x3 g) (byteOf st n) d0 d1, word4 d2 d3 d4 d5]

open Machine in
/-- The encoding of an instruction: the request of a command (R134), the bytes of a MIDI 1.0 message (R142), the words of a
UMP message (R151 to R155). -/
def encode : Instr → Input
  | .biFail w v => request .biFail [.int w.bits, .int v]
  | .biExact w v => request .biExact [.int w.bits, .int v]
  | .biClamp w v => request .biClamp [.int w.bits, .int v]
  | .biTrunc w v => request .biTrunc [.int w.bits, .int v]
  | .biAdd w a b => request .biAdd [.int w.bits, .int a, .int b]
  | .biSub w a b => request .biSub [.int w.bits, .int a, .int b]
  | .biMul w a b => request .biMul [.int w.bits, .int a, .int b]
  | .biDiv w a b => request .biDiv [.int w.bits, .int a, .int b]
  | .biRem w a b => request .biRem [.int w.bits, .int a, .int b]
  | .biCmp w a b => request .biCmp [.int w.bits, .int a, .int b]
  | .vvFromM1 t v => request .vvFromM1 [.vtype t, .int v]
  | .vvFromM2 t x => request .vvFromM2 [.vtype t, .int x]
  | .vvViewM1 t mag => request .vvViewM1 [.vtype t, .validated t mag]
  | .vvViewM2 t mag => request .vvViewM2 [.vtype t, .validated t mag]
  | .evMake raw => request .evMake [.int raw.kind.tag, .fields raw.fields]
  | .m1ToBytes e a b => request .m1ToBytes [.event e, optOperand bitOperand a, optOperand bitOperand b]
  | .m1FromBytes s g => request .m1FromBytes [seqOperand s, optOperand (fun g => .int (num g)) g]
  | .umpToWords e p => request .umpToWords [.event e, .protocol p]
  | .umpFromWords ws => request .umpFromWords [seqOperand ws]
  | .sxFrame e => request .sxFrame [.event e]
  | .sxParse d g => request .sxParse [seqOperand d, .int (num g)]
  | .sxChunk d g => request .sxChunk [seqOperand d, .int (num g)]
  | .sxUnchunk ps => request .sxUnchunk [.packets (ps.map fun p => (num p.w1, num p.w2))]
  | .sxSegLoad d g => request .sxSegLoad [seqOperand d, .int (num g)]
  | .sxSegNext => request .sxSegNext []
  | .sxReasmPush w1 w2 => request .sxReasmPush [.int (num w1), .int (num w2)]
  | .sxReasmReset sel => request .sxReasmReset [optOperand selOperand sel]
  | .hexFormat s sep => request .hexFormat [seqOperand s, optOperand seqOperand sep]
  | .reset => request .reset []
  | .m1NoteOff g c n v => .midi1 [byteOf 0x8 c, n, v] g
  | .m1NoteOn g c n v => .midi1 [byteOf 0x9 c, n, v] g
  | .m1PolyPressure g c n a => .midi1 [byteOf 0xA c, n, a] g
  | .m1ControlChange g c n v => .midi1 [byteOf 0xB c, n, v] g
  | .m1ProgramChange g c p => .midi1 [byteOf 0xC c, p] g
  | .m1ChannelPressure g c a => .midi1 [byteOf 0xD c, a] g
  | .m1PitchBend g c l m => .midi1 [byteOf 0xE c, l, m] g
  | .m1TuneRequest g => .midi1 [0xF6] g
  | .m1Sysex g rest => .midi1 (0xF0 :: rest) g
  | .ump1TuneRequest g r => .ump [word16 (headByte 0x1 g ++ 0xF6#8) r]
  | .ump2NoteOff g c n v => .ump [word4 (headByte 0x2 g) (byteOf 0x8 c) n v]
  | .ump2NoteOn g c n v => .ump [word4 (headByte 0x2 g) (byteOf 0x9 c) n v]
  | .ump2PolyPressure g c n a => .ump [word4 (headByte 0x2 g) (byteOf 0xA c) n a]
  | .ump2ControlChange g c n v => .ump [word4 (headByte 0x2 g) (byteOf 0xB c) n v]
  | .ump2ProgramChange g c p r => .ump [word4 (headByte 0x2 g) (byteOf 0xC c) p r]
  | .ump2ChannelPressure g c a r => .ump [word4 (headByte 0x2 g) (byteOf 0xD c) a r]
  | .ump2PitchBend g c l m => .ump [word4 (headByte 0x2 g) (byteOf 0xE c) l m]
  | .ump4PncRegistered g c n i v => .ump [word4 (headByte 0x4 g) (byteOf 0x0 c) n i, v]
  | .ump4PncAssignable g c n i v => .ump [word4 (headByte 0x4 g) (byteOf 0x1 c) n i, v]
  | .ump4NoteOff g c n aty v ad => .ump [word4 (headByte 0x4 g) (byteOf 0x8 c) n aty, word16 v ad]
  | .ump4NoteOn g c n aty v ad => .ump [word4 (headByte 0x4 g) (byteOf 0x9 c) n aty, word16 v ad]
  | .ump4PolyPressure g c n r a => .ump [word4 (headByte 0x4 g) (byteOf 0xA c) n r, a]
  | .ump4ControlChange g c n r v => .ump [word4 (headByte 0x4 g) (byteOf 0xB c) n r, v]
  | .ump4ProgramChange g c r o p r2 m l => .ump [word4 (headByte 0x4 g) (byteOf 0xC c) r o, word4 p r2 m l]
  | .ump4ChannelPressure g c r a => .ump [word16 (headByte 0x4 g ++ byteOf 0xD c) r, a]
  | .ump4PitchBend g c r v => .ump [word16 (headByte 0x4 g ++ byteOf 0xE c) r, v]
  | .ump3Complete g n d0 d1 d2 d3 d4 d5 => .ump (mt3Words g 0x0 n d0 d1 d2 d3 d4 d5)
  | .ump3Start g n d0 d1 d2 d3 d4 d5 => .ump (mt3Words g 0x1 n d0 d1 d2 d3 d4 d5)
  | .ump3Continue g n d0 d1 d2 d3 d4 d5 => .ump (mt3Words g 0x2 n d0 d1 d2 d3 d4 d5)
  | .ump3End g n d0 d1 d2 d3 d4 d5 => .ump (mt3Words g 0x3 n d0 d1 d2 d3 d4 d5)

/-! ## The words of the opcode table, for the host's probe -/

/-- The operands of a command "of zeros": the layout of operands is not defined (R131), so each operand is the least value
of its type, and one with a default is omitted (assumption 4). -/
def Op.zeroOperands : Op → List Operand
  | .biFail => [.int 4, .int 0] | .biExact => [.int 4, .int 0]
  | .biClamp => [.int 4, .int 0] | .biTrunc => [.int 4, .int 0]
  | .biAdd => [.int 4, .int 0, .int 0] | .biSub => [.int 4, .int 0, .int 0]
  | .biMul => [.int 4, .int 0, .int 0] | .biDiv => [.int 4, .int 0, .int 0]
  | .biRem => [.int 4, .int 0, .int 0] | .biCmp => [.int 4, .int 0, .int 0]
  | .vvFromM1 => [.vtype .vel, .int 0] | .vvFromM2 => [.vtype .vel, .int 0]
  | .vvViewM1 => [.vtype .vel, .validated .vel 0] | .vvViewM2 => [.vtype .vel, .validated .vel 0]
  | .evMake => [.int 0, .fields [.int 0, .int 0, .int 0, .value (.m1 0)]]
  | .m1ToBytes => [.event (.noteOff 0 0 0 0 0 0)]
  | .m1FromBytes => [.ints []]
  | .umpToWords => [.event (.noteOff 0 0 0 0 0 0), .protocol .p1]
  | .umpFromWords => [.ints []]
  | .sxFrame => [.event (.sysex7 0 (.three 0 0) [])]
  | .sxParse => [.ints [], .int 0] | .sxChunk => [.ints [], .int 0]
  | .sxUnchunk => [.packets []]
  | .sxSegLoad => [.ints [], .int 0]
  | .sxSegNext => []
  | .sxReasmPush => [.int 0, .int 0]
  | .sxReasmReset => []
  | .hexFormat => [.ints []]
  | .reset => []

/-- Byte `k` of a number, byte 0 the least significant. -/
def numByte (w k : Nat) : Byte := BitVec.ofNat 8 (w / 2 ^ (8 * k))

/-- The byte message whose first byte is `b0` and whose other bytes are bytes 1 and 2 of `w`, of the length its first
byte gives (R175); after 0xF0, which gives none, the two bytes follow. -/
def midi1OfNumber (w : Nat) : List Byte :=
  let b0 := numByte w 0
  match b0.toNat / 16 with
  | 0xC => [b0, numByte w 1]
  | 0xD => [b0, numByte w 1]
  | 0xF => if b0 = 0xF0#8 then [b0, numByte w 1, numByte w 2] else [b0]
  | _ => [b0, numByte w 1, numByte w 2]

/-- The UMP message whose first word is bits 31:0 of `w` and whose second, where the message type has one, is bits 63:32
(R176). -/
def umpOfNumber (w : Nat) : List Word :=
  let w1 : Word := BitVec.ofNat 32 w
  match w1.toNat / 2 ^ 28 with
  | 0x3 => [w1, BitVec.ofNat 32 (w / 2 ^ 32)]
  | 0x4 => [w1, BitVec.ofNat 32 (w / 2 ^ 32)]
  | _ => [w1]

/-- What is presented to the block for an opcode-table word of `nbits` bits: the table gives a command its opcode byte and
a MIDI 1.0 message its first byte (8 bits), a UMP message its first word (32 bits). Opcodes are below 0x80 and first bytes
of messages are not (R132, R140). -/
def inputOfTableWord (nbits w : Nat) : Input :=
  if nbits ≤ 24 then
    if w % 256 < 0x80 then
      match Op.ofCode? (numByte w 0) with
      | some op => .command (numByte w 0) op.zeroOperands
      | none => .command (numByte w 0) []
    else .midi1 (midi1OfNumber w) none
  else .ump (umpOfNumber w)

/-- The instruction the decoder reads from an opcode-table word; `none` where it refuses. -/
def decodeTableWord (nbits w : Nat) : Option Instr :=
  match decodeInput (inputOfTableWord nbits w) with
  | .ok i => some i
  | .error _ => none

end Sys2Proof
end

