-- ==== Sys2Proof/Machine/State.lean ====
section
/-! DEFINITION. The state of the block: the segmenter context, the sixteen reassembly contexts, the ports and the one open
parameter, as plain data (10_state.md sections 1 and 4); responses (R72); how a step can stop; the reset state (R700). -/

namespace Sys2Proof.Machine

/-! ## Responses -/

/-- The error statuses (R600, R601). -/
inductive ErrorKind where
  | rangeError
  | malformedWireData
  | unsupportedProtocolCombination
  | refusedCapacity
deriving DecidableEq, Repr

/-- What SX_SEG_NEXT returns (R71). -/
inductive SegOut where
  | packet (p : Packet)
  | done
deriving DecidableEq, Repr

/-- What SX_REASM_PUSH returns (R71). -/
inductive ReasmOut where
  | none
  | message (group : U4) (data : List U7)
deriving DecidableEq, Repr

/-- A result, of the type the command's rule names (R72, R134). -/
inductive Result where
  | none
  | bounded (w : Width) (v : Nat)
  | exact (w : Width) (v : Option Nat)
  | cmp (c : Cmp)
  | validated (t : VType) (mag : Nat)
  | event (e : Event)
  | bytes (s : List Byte)
  | words (ws : List Word)
  | data (d : List U7)
  | packets (ps : List Packet)
  | segOut (o : SegOut)
  | reasmOut (o : ReasmOut)
deriving DecidableEq, Repr

/-- A response: status OK with a result, or an error status, which carries none (R72, R600). -/
inductive Response where
  | ok (r : Result)
  | error (k : ErrorKind)
deriving DecidableEq, Repr

/-! ## Contexts -/

/-- The segmenter context `SEG` (R80). -/
structure SegContext where
  active : Bool
  data : List U7
  len : Nat
  pos : Nat
  group : U4
deriving DecidableEq, Repr

/-- One reassembly context `RA[g]` (R81). -/
structure ReasmContext where
  active : Bool
  buf : List U7
deriving DecidableEq, Repr

/-- `SEG` at its reset value (R85, R700). -/
def SegContext.idle : SegContext := { active := false, data := [], len := 0, pos := 0, group := 0#4 }

/-- `RA[g]` at its reset value (R85, R700). -/
def ReasmContext.idle : ReasmContext := { active := false, buf := [] }

/-- Every reassembly context at its reset value (R700). -/
def idleContexts : Vector ReasmContext Config.groups := Vector.replicate Config.groups ReasmContext.idle

/-! ## State -/

/-- One instance of the block. `seg` and `ra` are all the state the spec gives it (R85). `port` holds what has been
presented and not yet executed, oldest first (R112, R181; assumption 1), `response` the last response (R72, R181;
assumption 3), `pSxMax` the parameter `P_SX_MAX`, `none` when unbounded (R13; assumption 8). -/
structure State where
  seg : SegContext
  ra : Vector ReasmContext Config.groups
  port : List Input
  response : Option Response
  pSxMax : Option Nat
deriving DecidableEq, Repr

/-- The machine's faults: there are none. A failing command answers an error status and the next command follows (R608,
R610), no command can hang (93_implementation_defined.md I13), and no value is unspecified (R700). Nobody raises a
constructor of this type; that is safe, since it has none (assumption 11). -/
inductive Fault : Type
deriving DecidableEq, Repr

/-- Why a step has no meaning. -/
inductive Refusal where
  /-- Raised by `exec` for an instruction whose meaning is not written yet; no arm raises it now. Safe: the run ends. -/
  | notModelled (mnemonic : String)
  /-- Raised by the command boundary, in `step` and in a meaning whose operands do not have their types: the request is not
  a command, there is no response and no state change (R6, R73, R606). Safe: the run ends where the hardware would go on
  with the next request (assumption 9). -/
  | boundary (r : Rejection)
deriving DecidableEq, Repr

/-- The machine right after power-on (R700): SEG and every RA[g] idle. Nothing is presented on the command port
(assumption 1), no response has been given (assumption 3), and `P_SX_MAX` is unbounded, the default of R13 (assumption 8). -/
def State.reset : State :=
  { seg := SegContext.idle
    ra := idleContexts
    port := []
    response := none
    pSxMax := Config.defaultSxMax }

end Sys2Proof.Machine
end

