-- ==== Sys2Proof/Machine/Ops.lean ====
section
/-! DEFINITION. The shared operations: ending a command with its response, the command boundary of a meaning, and reads and
writes of the contexts (00_scope.md R23, 10_state.md R80 to R84). -/

namespace Sys2Proof.Machine

/-! ## Ending a command -/

/-- What every meaning answers with. -/
abbrev Answer := Host.Outcome State Fault Refusal

/-- The response port after a command: the response to it (R72, R133). -/
def State.withResponse (s : State) (r : Response) : State := { s with response := some r }

/-- End a command with one response; the contexts are those of `s`, written all together (R84, R133). -/
def respond (s : State) (r : Response) : Answer := .next (s.withResponse r)

/-- `return Ok(v)` (R23). -/
def returnOk (s : State) (v : Result) : Answer := respond s (.ok v)

/-- `raise` and `refuse`: end a command with an error status and no result. This is the whole of what an error does: it
saves nothing, changes no mode and transfers no control (R23, R608, R610). -/
def raise (s : State) (k : ErrorKind) : Answer := respond s (.error k)

/-- End a command that computes its result without touching the contexts (R50). -/
def answer (s : State) (x : Except ErrorKind Result) : Answer :=
  match x with
  | .ok v => returnOk s v
  | .error k => raise s k

/-- The command boundary inside a meaning: a request with an operand of the wrong type is refused by name (R73, R606). -/
def atBoundary (opcode : Byte) (typed : Bool) (a : Answer) : Answer :=
  if typed then a else .refused (.boundary (.illTyped opcode))

/-! ## Contexts -/

/-- `RA[g]` (R81). -/
def State.raOf (s : State) (g : U4) : ReasmContext := s.ra[g.toNat]'g.isLt

/-- Write `RA[g]`; no other context changes (R81). -/
def State.setRa (s : State) (g : U4) (c : ReasmContext) : State := { s with ra := s.ra.set g.toNat c g.isLt }

/-- `RA[g].active <- 0; RA[g].buf <- []`. -/
def State.clearRa (s : State) (g : U4) : State := s.setRa g ReasmContext.idle

/-- Clear every reassembly context. -/
def State.clearAllRa (s : State) : State := { s with ra := idleContexts }

/-- Write `SEG`. -/
def State.setSeg (s : State) (c : SegContext) : State := { s with seg := c }

/-- Whether `n` data bytes are within `P_SX_MAX` (R13, R523). -/
def State.withinCapacity (s : State) (n : Nat) : Bool :=
  match s.pSxMax with
  | none => true
  | some m => decide (n ≤ m)

/-! ## The command port -/

/-- Take the oldest input off the command port (R112). -/
def State.withPort (s : State) (p : List Input) : State := { s with port := p }

end Sys2Proof.Machine
end

