-- ==== Sys2Proof/Machine/Bounded.lean ====
section
/-! DEFINITION. The field marshaler's bounded integers: BI_FAIL to BI_CMP (40_marshaler.md sections 1 and 2). -/

namespace Sys2Proof.Machine

/-- Narrow an exact integer to a width, or raise RangeError (R200). -/
def inRange (w : Width) (r : Int) : Except ErrorKind Result :=
  if r < 0 ∨ (w.max : Int) < r then .error .rangeError else .ok (.bounded w r.toNat)

/-- BI_FAIL (R200). -/
def execBiFail (w : Width) (v : Int) (s : State) : Answer := answer s (inRange w v)

/-- BI_EXACT (R201): an out-of-range value is the absent result, not an error. -/
def execBiExact (w : Width) (v : Int) (s : State) : Answer :=
  returnOk s (.exact w (if v < 0 ∨ (w.max : Int) < v then none else some v.toNat))

/-- BI_CLAMP (R202). -/
def execBiClamp (w : Width) (v : Int) (s : State) : Answer :=
  returnOk s (.bounded w (min (max v 0) (w.max : Int)).toNat)

/-- BI_TRUNC (R203): the Euclidean remainder by `2^W`. -/
def execBiTrunc (w : Width) (v : Int) (s : State) : Answer :=
  returnOk s (.bounded w (v % (2 ^ w.bits : Int)).toNat)

/-- BI_ADD (R205): the exact sum, RangeError on overflow. -/
def execBiAdd (w : Width) (a b : Nat) (s : State) : Answer :=
  atBoundary Op.biAdd.code (w.fits a && w.fits b) (answer s (inRange w ((a : Int) + b)))

/-- BI_SUB (R206): the exact difference, RangeError below zero. -/
def execBiSub (w : Width) (a b : Nat) (s : State) : Answer :=
  atBoundary Op.biSub.code (w.fits a && w.fits b) (answer s (inRange w ((a : Int) - b)))

/-- BI_MUL (R207): the exact product, RangeError on overflow. -/
def execBiMul (w : Width) (a b : Nat) (s : State) : Answer :=
  atBoundary Op.biMul.code (w.fits a && w.fits b) (answer s (inRange w ((a : Int) * b)))

/-- BI_DIV (R208): floor division, RangeError on division by zero. -/
def execBiDiv (w : Width) (a b : Nat) (s : State) : Answer :=
  atBoundary Op.biDiv.code (w.fits a && w.fits b)
    (answer s (if b = 0 then .error .rangeError else .ok (.bounded w (a / b))))

/-- BI_REM (R209): the remainder, RangeError on division by zero. -/
def execBiRem (w : Width) (a b : Nat) (s : State) : Answer :=
  atBoundary Op.biRem.code (w.fits a && w.fits b)
    (answer s (if b = 0 then .error .rangeError else .ok (.bounded w (a % b))))

/-- BI_CMP (R204): order by magnitude. -/
def execBiCmp (w : Width) (a b : Nat) (s : State) : Answer :=
  atBoundary Op.biCmp.code (w.fits a && w.fits b)
    (returnOk s (.cmp (if a < b then .lt else if a = b then .eq else .gt)))

end Sys2Proof.Machine
end

