-- ==== Sys2Proof/Machine/Hex.lean ====
section
/-! DEFINITION. The diagnostic hex formatter (44_diagnostic.md). -/

namespace Sys2Proof.Machine

/-- `digit(v)`: '0' to '9', then 'A' to 'F' (R580). -/
def hexDigit (v : Nat) : Byte := if v ≤ 9 then BitVec.ofNat 8 (0x30 + v) else BitVec.ofNat 8 (0x41 + v - 10)

/-- The two digits of a byte, high nibble first (R580). -/
def hexDigits (b : Byte) : List Byte := [hexDigit (b.toNat / 16), hexDigit (b.toNat % 16)]

/-- `HEX_FORMAT(s, sep)`: the separator stands between bytes only (R580). -/
def hexFormat (s sep : List Byte) : List Byte :=
  match s with
  | [] => []
  | b :: rest => hexDigits b ++ rest.flatMap fun c => sep ++ hexDigits c

/-- HEX_FORMAT (R580). -/
def execHexFormat (m : List Byte) (sep : Option (List Byte)) (s : State) : Answer :=
  returnOk s (.bytes (hexFormat m (separatorOrDefault sep)))

end Sys2Proof.Machine
end

