-- ==== Sys2Proof/Machine/Rescale.lean ====
section
/-! DEFINITION. The rescale between MIDI 1.0 and MIDI 2.0 resolution (40_marshaler.md section 3), on exact naturals. -/

namespace Sys2Proof.Machine

/-- `rnd(a, b) = (2a + b) div (2b)`: a/b to the nearest integer, a half rounded up (R215). -/
def rnd (a b : Nat) : Nat := (2 * a + b) / (2 * b)

/-- Widening from N to M bits, not centered (R216). -/
def widen (v n m : Nat) : Nat := rnd (v * (2 ^ m - 1)) (2 ^ n - 1)

/-- Narrowing from M to N bits, for every type (R217). -/
def narrow (x m n : Nat) : Nat := rnd (x * (2 ^ n - 1)) (2 ^ m - 1)

/-- Widening of a centered type: a shift up to the center, the linear rule above it (R218). -/
def widenC (v n m : Nat) : Nat :=
  if v ≤ 2 ^ (n - 1) then v * 2 ^ (m - n)
  else 2 ^ (m - 1) + rnd ((v - 2 ^ (n - 1)) * (2 ^ (m - 1) - 1)) (2 ^ (n - 1) - 1)

/-- The magnitude of a validated value built from its MIDI 1.0 value (R219). -/
def magOfM1 (t : VType) (v : Nat) : Nat :=
  if t.centered then widenC v t.m1Width.bits t.m2Width.bits else widen v t.m1Width.bits t.m2Width.bits

/-- The MIDI 1.0 view of a magnitude (R221). -/
def viewM1 (t : VType) (mag : Nat) : Nat := narrow mag t.m2Width.bits t.m1Width.bits

/-- The velocity magnitude a 7-bit data byte widens to. -/
def velOfByte (b : Byte) : U16 := BitVec.ofNat 16 (magOfM1 .vel b.toNat)

/-- The pressure amount a 7-bit data byte widens to. -/
def amtOfByte (b : Byte) : U32 := BitVec.ofNat 32 (magOfM1 .amt b.toNat)

/-- The control change value a 7-bit data byte widens to. -/
def ccvOfByte (b : Byte) : U32 := BitVec.ofNat 32 (magOfM1 .ccv b.toNat)

/-- The pitch bend value a 14-bit value widens to. -/
def pbvOfM1 (v : Nat) : U32 := BitVec.ofNat 32 (magOfM1 .pbv v)

/-- A velocity narrowed to a data byte. -/
def velByte (mag : U16) : Byte := BitVec.ofNat 8 (viewM1 .vel mag.toNat)

/-- A pressure amount narrowed to a data byte. -/
def amtByte (mag : U32) : Byte := BitVec.ofNat 8 (viewM1 .amt mag.toNat)

/-- A control change value narrowed to a data byte. -/
def ccvByte (mag : U32) : Byte := BitVec.ofNat 8 (viewM1 .ccv mag.toNat)

/-- A pitch bend value narrowed to 14 bits. -/
def pbvM1 (mag : U32) : Nat := viewM1 .pbv mag.toNat

end Sys2Proof.Machine
end

