-- ==== Sys2Proof/Machine/Marshal.lean ====
section
/-! DEFINITION. The field marshaler's validated values and event construction: VV_FROM_M1 to VV_VIEW_M2 and EV_MAKE
(40_marshaler.md sections 4 and 5). -/

namespace Sys2Proof.Machine

/-! ## Validated values -/

/-- VV_FROM_M1 (R219). -/
def execVvFromM1 (t : VType) (v : Nat) (s : State) : Answer :=
  atBoundary Op.vvFromM1.code (t.m1Width.fits v) (returnOk s (.validated t (magOfM1 t v)))

/-- VV_FROM_M2 (R220). -/
def execVvFromM2 (t : VType) (x : Nat) (s : State) : Answer :=
  atBoundary Op.vvFromM2.code (t.m2Width.fits x) (returnOk s (.validated t x))

/-- VV_VIEW_M1 (R221). -/
def execVvViewM1 (t : VType) (mag : Nat) (s : State) : Answer :=
  atBoundary Op.vvViewM1.code (t.m2Width.fits mag) (returnOk s (.bounded t.m1Width (viewM1 t mag)))

/-- VV_VIEW_M2 (R222). -/
def execVvViewM2 (t : VType) (mag : Nat) (s : State) : Answer :=
  atBoundary Op.vvViewM2.code (t.m2Width.fits mag) (returnOk s (.bounded t.m2Width mag))

/-! ## The fields of EV_MAKE (R231) -/

/-- A raw integer checked against `[lo, hi]` and built as an `n`-bit field. -/
def rangeField (n : Nat) (lo hi v : Int) : Except ErrorKind (BitVec n) :=
  if v < lo ∨ hi < v then .error .rangeError else .ok (BitVec.ofNat n v.toNat)

/-- A raw integer checked against the whole range of an `n`-bit field, as by BI_FAIL. -/
def uField (n : Nat) (v : Int) : Except ErrorKind (BitVec n) := rangeField n 0 (2 ^ n - 1) v

/-- A raw field with a default of 0. -/
def uFieldOr0 (n : Nat) (v : Option Int) : Except ErrorKind (BitVec n) :=
  match v with
  | none => .ok 0
  | some v => uField n v

/-- A note or controller number; an already-built U7 skips its range check (R232). -/
def numberValue : RawNumber → Except ErrorKind U7
  | .raw v => uField 7 v
  | .typed n => .ok n

/-- A validated value: its raw integer is checked, then `m1:v` is VV_FROM_M1 and `m2:x` is VV_FROM_M2 (R230). -/
def rawMagnitude (t : VType) : RawValue → Except ErrorKind Nat
  | .m1 v => if v < 0 ∨ (t.m1Width.max : Int) < v then .error .rangeError else .ok (magOfM1 t v.toNat)
  | .m2 x => if x < 0 ∨ (t.m2Width.max : Int) < x then .error .rangeError else .ok x.toNat

/-- A validated value as a magnitude of `n` bits. -/
def rawValueField (n : Nat) (t : VType) (v : RawValue) : Except ErrorKind (BitVec n) :=
  (rawMagnitude t v).map (BitVec.ofNat n)

/-- A bank; NoBank when omitted. -/
def bankValue : Option RawBank → Except ErrorKind Bank
  | none => .ok .noBank
  | some .noBank => .ok .noBank
  | some (.bank msb lsb) => do
    let m ← uField 7 msb
    let l ← uField 7 lsb
    .ok (.bank m l)

/-- A manufacturer ID: One in [0x01, 0x7D], Three with each byte in [0, 127]. -/
def manufacturerValue : RawManufacturer → Except ErrorKind ManufacturerId
  | .one id => (rangeField 7 0x01 0x7D id).map .one
  | .three b1 b2 => do
    let x ← uField 7 b1
    let y ← uField 7 b2
    .ok (.three x y)

/-- A SysEx data sequence, each element in [0, 127]. -/
def dataField : List Int → Except ErrorKind (List U7)
  | [] => .ok []
  | v :: vs => do
    let x ← uField 7 v
    let xs ← dataField vs
    .ok (x :: xs)

/-- EV_MAKE's checks, field by field in the order of R231, and the Event they build (R230). -/
def buildEvent : RawEvent → Except ErrorKind Event
  | .noteOff g c n v aty ad => do
    .ok (.noteOff (← uField 4 g) (← uField 4 c) (← numberValue n) (← rawValueField 16 .vel v)
      (← uFieldOr0 8 aty) (← uFieldOr0 16 ad))
  | .noteOn g c n v aty ad => do
    .ok (.noteOn (← uField 4 g) (← uField 4 c) (← numberValue n) (← rawValueField 16 .vel v)
      (← uFieldOr0 8 aty) (← uFieldOr0 16 ad))
  | .polyPressure g c n a => do
    .ok (.polyPressure (← uField 4 g) (← uField 4 c) (← numberValue n) (← rawValueField 32 .amt a))
  | .controlChange g c n v => do
    .ok (.controlChange (← uField 4 g) (← uField 4 c) (← numberValue n) (← rawValueField 32 .ccv v))
  | .programChange g c p b => do
    .ok (.programChange (← uField 4 g) (← uField 4 c) (← uField 7 p) (← bankValue b))
  | .channelPressure g c a => do
    .ok (.channelPressure (← uField 4 g) (← uField 4 c) (← rawValueField 32 .amt a))
  | .pitchBend g c v => do
    .ok (.pitchBend (← uField 4 g) (← uField 4 c) (← rawValueField 32 .pbv v))
  | .pncRegistered g c n i v => do
    .ok (.pncRegistered (← uField 4 g) (← uField 4 c) (← numberValue n) (← uField 8 i) (← uField 32 v))
  | .pncAssignable g c n i v => do
    .ok (.pncAssignable (← uField 4 g) (← uField 4 c) (← numberValue n) (← uField 8 i) (← uField 32 v))
  | .tuneRequest g => do
    .ok (.tuneRequest (← uField 4 g))
  | .sysex7 g m d => do
    .ok (.sysex7 (← uField 4 g) (← manufacturerValue m) (← dataField d))
  | .universalSysex7 g k dev s1 s2 d => do
    .ok (.universalSysex7 (← uField 4 g) k (← uField 7 dev) (← uField 7 s1) (← uField 7 s2) (← dataField d))

/-- EV_MAKE (R230). -/
def execEvMake (raw : RawEvent) (s : State) : Answer := answer s ((buildEvent raw).map .event)

end Sys2Proof.Machine
end

