-- ==== Sys2Proof/Machine/SysEx.lean ====
section
/-! DEFINITION. The SysEx7 chunker's pure commands: framing, chunking, packet validity and unchunking
(43_sysex7_chunker.md sections 1, 2 and 4). -/

namespace Sys2Proof.Machine

/-! ## Framing -/

/-- The lead byte of a Universal SysEx data sequence (R500). -/
def universalLead : UniversalKind → U7
  | .nonRealtime => 0x7E#7
  | .realtime => 0x7F#7

/-- The bytes of a manufacturer ID on the wire (R70, R500). -/
def manufacturerBytes : ManufacturerId → List U7
  | .one id => [id]
  | .three b1 b2 => [0x00#7, b1, b2]

/-- `SX_FRAME(e)` for the two SysEx kinds; the other kinds have no data sequence (R500). -/
def frame : Event → List U7
  | .sysex7 _ m d => manufacturerBytes m ++ d
  | .universalSysex7 _ k dev s1 s2 d => [universalLead k, dev, s1, s2] ++ d
  | .noteOff _ _ _ _ _ _ => []
  | .noteOn _ _ _ _ _ _ => []
  | .polyPressure _ _ _ _ => []
  | .controlChange _ _ _ _ => []
  | .programChange _ _ _ _ => []
  | .channelPressure _ _ _ => []
  | .pitchBend _ _ _ => []
  | .pncRegistered _ _ _ _ _ => []
  | .pncAssignable _ _ _ _ _ => []
  | .tuneRequest _ => []

/-- The Event of a non-empty 7-bit data sequence with lead byte `b` (R501). -/
def parseLead (g : U4) (b : U7) (rest : List U7) : Except ErrorKind Event :=
  if b = 0x00#7 then
    match rest with
    | b1 :: b2 :: d => .ok (.sysex7 g (.three b1 b2) d)
    | _ => .error .malformedWireData
  else if b.toNat ≤ 0x7D then .ok (.sysex7 g (.one b) rest)
  else
    match rest with
    | dev :: s1 :: s2 :: d =>
      .ok (.universalSysex7 g (if b = 0x7E#7 then .nonRealtime else .realtime) dev s1 s2 d)
    | _ => .error .malformedWireData

/-- `SX_PARSE(d, group)` (R501). -/
def parse (d : List Byte) (g : U4) : Except ErrorKind Event :=
  if d.all is7 then
    match d.map low7 with
    | [] => .error .malformedWireData
    | b :: rest => parseLead g b rest
  else .error .malformedWireData

/-! ## Chunking -/

/-- The four packet statuses (R154). -/
inductive PacketStatus where
  | complete | start | cont | fin
deriving DecidableEq, Repr

/-- The status values (R154). -/
def PacketStatus.code : PacketStatus → U4
  | .complete => 0x0 | .start => 0x1 | .cont => 0x2 | .fin => 0x3

/-- The packet status a status nibble is; 0x4 to 0xF are none (R154, R171). -/
def PacketStatus.ofCode? (c : U4) : Option PacketStatus :=
  if c = 0x0#4 then some .complete else if c = 0x1#4 then some .start
  else if c = 0x2#4 then some .cont else if c = 0x3#4 then some .fin else none

/-- A packet of status `st` that carries the bytes `b`, at most six, with zero fill (R153). -/
def packetOf (g : U4) (st : PacketStatus) (b : List U7) : Packet :=
  let d (k : Nat) : Byte := byte7 (b.getD k 0#7)
  { w1 := word4 (headByte 0x3 g) (byteOf st.code (BitVec.ofNat 4 b.length)) (d 0) (d 1)
    w2 := word4 (d 2) (d 3) (d 4) (d 5) }

/-- The status of the packet whose stride starts at `pos` in a sequence of length `len` (R505). -/
def strideStatus (len pos : Nat) : PacketStatus :=
  if pos = 0 then (if len ≤ Config.packetCapacity then .complete else .start)
  else if len - pos ≤ Config.packetCapacity then .fin else .cont

/-- The stride function (R505). -/
def stride (d : List U7) (g : U4) (pos : Nat) : Packet :=
  packetOf g (strideStatus d.length pos) ((d.drop pos).take (min Config.packetCapacity (d.length - pos)))

/-- The loop of SX_CHUNK from position `pos`; each turn consumes at least one byte, so `len(d)` turns of fuel are enough
(R506). -/
def chunkLoop (d : List U7) (g : U4) : Nat → Nat → List Packet
  | 0, _ => []
  | fuel + 1, pos =>
    if pos < d.length then
      stride d g pos :: chunkLoop d g fuel (pos + min Config.packetCapacity (d.length - pos))
    else []

/-- `SX_CHUNK(d, g)` (R506). -/
def chunk (d : List U7) (g : U4) : List Packet := chunkLoop d g d.length 0

/-! ## Packet validity and unchunking -/

/-- The six byte slots of a packet. -/
def slots (p : Packet) : List Byte :=
  [byte2 p.w1, byte3 p.w1, byte0 p.w2, byte1 p.w2, byte2 p.w2, byte3 p.w2]

/-- The byte count of a packet, `w1[19:16]` (R153). -/
def countOf (p : Packet) : Nat := (channelOf p.w1).toNat

/-- The packet status of a packet, if its status nibble is one (R154). -/
def packetStatus? (p : Packet) : Option PacketStatus := PacketStatus.ofCode? (statusOf p.w1)

/-- The slots a packet's byte count delimits; the others are zero fill and are not looked at (R153, R515). -/
def countedSlots (p : Packet) : List Byte := (slots p).take (countOf p)

/-- The data bytes of a packet whose counted slots are 7-bit (R515). -/
def packetBytes (p : Packet) : List U7 := (countedSlots p).map low7

/-- Whether a packet's status, count and counted slots are valid, its message type apart (R515). -/
def bodyValid (p : Packet) : Bool :=
  (packetStatus? p).isSome && decide (countOf p ≤ Config.packetCapacity) && (countedSlots p).all is7

/-- A valid packet (R515). -/
def packetValid (p : Packet) : Bool := decide (msgType p.w1 = 0x3#4) && bodyValid p

/-- `continue*, end`: the statuses after a `start` (R516). -/
def contsThenEnd : List Packet → Bool
  | [] => false
  | [p] => packetStatus? p == some .fin
  | p :: q :: rest => packetStatus? p == some .cont && contsThenEnd (q :: rest)

/-- The status sequence of a whole message: `complete` alone, or `start, continue*, end` (R516). -/
def statusesOk : List Packet → Bool
  | [] => true
  | [p] => packetStatus? p == some .complete
  | p :: q :: rest => packetStatus? p == some .start && contsThenEnd (q :: rest)

/-- `SX_UNCHUNK(ps)` (R516). -/
def unchunk (ps : List Packet) : Except ErrorKind (List U7) :=
  match ps with
  | [] => .ok []
  | p :: _ =>
    if !ps.all packetValid then .error .malformedWireData
    else if !ps.all (fun q => groupOf q.w1 == groupOf p.w1) then .error .malformedWireData
    else if !statusesOk ps then .error .malformedWireData
    else .ok (ps.flatMap packetBytes)

/-! ## Meanings -/

/-- SX_FRAME (R500). -/
def execSxFrame (e : Event) (s : State) : Answer :=
  atBoundary Op.sxFrame.code (e.wf && e.isSysEx) (returnOk s (.data (frame e)))

/-- SX_PARSE (R501). -/
def execSxParse (d : List Byte) (g : U4) (s : State) : Answer := answer s ((parse d g).map .event)

/-- SX_CHUNK (R506); never bounded by `P_SX_MAX` (R13). -/
def execSxChunk (d : List U7) (g : U4) (s : State) : Answer := returnOk s (.packets (chunk d g))

/-- SX_UNCHUNK (R516). -/
def execSxUnchunk (ps : List Packet) (s : State) : Answer := answer s ((unchunk ps).map .data)

end Sys2Proof.Machine
end

