-- ==== Sys2Proof/Machine/Midi1.lean ====
section
/-! DEFINITION. The MIDI 1.0 byte serializer and deserializer: one encode and one decode for each wire form, M1_TOBYTES and
M1_FROMBYTES, and the nine byte-message wire forms (41_midi1_bytes.md). -/

namespace Sys2Proof.Machine

/-! ## Encoding, one function for each wire form -/

/-- R305, encode. -/
def noteOffBytes (ch : U4) (note : U7) (vel : U16) (aty : Byte) (ad : U16) : Except ErrorKind (List Byte) :=
  if aty ≠ 0#8 ∨ ad ≠ 0#16 then .error .unsupportedProtocolCombination
  else .ok [byteOf 0x8 ch, byte7 note, velByte vel]

/-- R306, encode. -/
def noteOnBytes (ch : U4) (note : U7) (vel : U16) (aty : Byte) (ad : U16) : Except ErrorKind (List Byte) :=
  if aty ≠ 0#8 ∨ ad ≠ 0#16 then .error .unsupportedProtocolCombination
  else .ok [byteOf 0x9 ch, byte7 note, velByte vel]

/-- R307, encode. -/
def polyPressureBytes (ch : U4) (note : U7) (amount : U32) : Except ErrorKind (List Byte) :=
  .ok [byteOf 0xA ch, byte7 note, amtByte amount]

/-- R308, encode. -/
def controlChangeBytes (ch : U4) (controller : U7) (value : U32) : Except ErrorKind (List Byte) :=
  .ok [byteOf 0xB ch, byte7 controller, ccvByte value]

/-- R309, encode. -/
def programChangeBytes (ch : U4) (program : U7) (bank : Bank) : Except ErrorKind (List Byte) :=
  if bank = .noBank then .ok [byteOf 0xC ch, byte7 program] else .error .unsupportedProtocolCombination

/-- R310, encode. -/
def channelPressureBytes (ch : U4) (amount : U32) : Except ErrorKind (List Byte) :=
  .ok [byteOf 0xD ch, amtByte amount]

/-- R311, encode. -/
def pitchBendBytes (ch : U4) (value : U32) : Except ErrorKind (List Byte) :=
  .ok [byteOf 0xE ch, bendLsb (pbvM1 value), bendMsb (pbvM1 value)]

/-- R312, encode. -/
def tuneRequestBytes : Except ErrorKind (List Byte) := .ok [0xF6#8]

/-- R313, encode: the data sequence between the framing bytes that are asked for. -/
def sysexBytes (e : Event) (incStart incEnd : Bool) : Except ErrorKind (List Byte) :=
  .ok ((if incStart then [0xF0#8] else []) ++ (frame e).map byte7 ++ (if incEnd then [0xF7#8] else []))

/-- `M1_TOBYTES` (R300). -/
def toBytes (e : Event) (incStart incEnd : Bool) : Except ErrorKind (List Byte) :=
  match e with
  | .noteOff _ ch note vel aty ad => noteOffBytes ch note vel aty ad
  | .noteOn _ ch note vel aty ad => noteOnBytes ch note vel aty ad
  | .polyPressure _ ch note amount => polyPressureBytes ch note amount
  | .controlChange _ ch controller value => controlChangeBytes ch controller value
  | .programChange _ ch program bank => programChangeBytes ch program bank
  | .channelPressure _ ch amount => channelPressureBytes ch amount
  | .pitchBend _ ch value => pitchBendBytes ch value
  | .pncRegistered _ _ _ _ _ => .error .unsupportedProtocolCombination
  | .pncAssignable _ _ _ _ _ => .error .unsupportedProtocolCombination
  | .tuneRequest _ => tuneRequestBytes
  | .sysex7 _ _ _ => sysexBytes e incStart incEnd
  | .universalSysex7 _ _ _ _ _ _ => sysexBytes e incStart incEnd

/-! ## Decoding, one function for each wire form -/

/-- A form with one 7-bit data byte: MalformedWireData when bit 7 is set (R301, R172). -/
def with7 (d1 : Byte) (e : Event) : Except ErrorKind Event :=
  if is7 d1 then .ok e else .error .malformedWireData

/-- A form with two 7-bit data bytes (R301, R172). -/
def with7x2 (d1 d2 : Byte) (e : Event) : Except ErrorKind Event :=
  if is7 d1 && is7 d2 then .ok e else .error .malformedWireData

/-- R305, decode. -/
def noteOffOfBytes (g ch : U4) (note vel : Byte) : Except ErrorKind Event :=
  with7x2 note vel (.noteOff g ch (low7 note) (velOfByte vel) 0#8 0#16)

/-- R306, decode: velocity byte 0 stays NOTE_ON. -/
def noteOnOfBytes (g ch : U4) (note vel : Byte) : Except ErrorKind Event :=
  with7x2 note vel (.noteOn g ch (low7 note) (velOfByte vel) 0#8 0#16)

/-- R307, decode. -/
def polyPressureOfBytes (g ch : U4) (note amount : Byte) : Except ErrorKind Event :=
  with7x2 note amount (.polyPressure g ch (low7 note) (amtOfByte amount))

/-- R308, decode: controllers 0x78 to 0x7F are ordinary. -/
def controlChangeOfBytes (g ch : U4) (controller value : Byte) : Except ErrorKind Event :=
  with7x2 controller value (.controlChange g ch (low7 controller) (ccvOfByte value))

/-- R309, decode. -/
def programChangeOfBytes (g ch : U4) (program : Byte) : Except ErrorKind Event :=
  with7 program (.programChange g ch (low7 program) .noBank)

/-- R310, decode. -/
def channelPressureOfBytes (g ch : U4) (amount : Byte) : Except ErrorKind Event :=
  with7 amount (.channelPressure g ch (amtOfByte amount))

/-- R311, decode: LSB first. -/
def pitchBendOfBytes (g ch : U4) (lsb msb : Byte) : Except ErrorKind Event :=
  with7x2 lsb msb (.pitchBend g ch (pbvOfM1 (bendJoin lsb msb)))

/-- R312, decode. -/
def tuneRequestOfBytes (g : U4) : Except ErrorKind Event := .ok (.tuneRequest g)

/-- R313, decode: `rest` is what follows the byte 0xF0; its last byte must be 0xF7 and every byte before that 7-bit. -/
def sysexOfBytes (g : U4) (rest : List Byte) : Except ErrorKind Event :=
  if rest.getLast? = some 0xF7#8 then
    if rest.dropLast.all is7 then parse rest.dropLast g else .error .malformedWireData
  else .error .malformedWireData

/-- A first byte of the format M1-CH3 (R301). -/
def isChannel3 (b0 : Byte) : Bool :=
  decide (0x80 ≤ b0.toNat ∧ b0.toNat ≤ 0xBF) || decide (0xE0 ≤ b0.toNat ∧ b0.toNat ≤ 0xEF)

/-- A first byte of the format M1-CH2 (R301). -/
def isChannel2 (b0 : Byte) : Bool := decide (0xC0 ≤ b0.toNat ∧ b0.toNat ≤ 0xDF)

/-- A three-byte channel message, by its status nibble (R301). -/
def channel3OfBytes (g : U4) (b0 d1 d2 : Byte) : Except ErrorKind Event :=
  match (hi4 b0).toNat with
  | 0x8 => noteOffOfBytes g (lo4 b0) d1 d2
  | 0x9 => noteOnOfBytes g (lo4 b0) d1 d2
  | 0xA => polyPressureOfBytes g (lo4 b0) d1 d2
  | 0xB => controlChangeOfBytes g (lo4 b0) d1 d2
  | 0xE => pitchBendOfBytes g (lo4 b0) d1 d2
  | _ => .error .malformedWireData

/-- A two-byte channel message, by its status nibble (R301). -/
def channel2OfBytes (g : U4) (b0 d1 : Byte) : Except ErrorKind Event :=
  match (hi4 b0).toNat with
  | 0xC => programChangeOfBytes g (lo4 b0) d1
  | 0xD => channelPressureOfBytes g (lo4 b0) d1
  | _ => .error .malformedWireData

/-- `M1_FROMBYTES` (R301): exactly one complete message. -/
def fromBytes (s : List Byte) (g : U4) : Except ErrorKind Event :=
  match s with
  | [] => .error .malformedWireData
  | b0 :: rest =>
    if isChannel3 b0 then
      match rest with
      | [d1, d2] => channel3OfBytes g b0 d1 d2
      | _ => .error .malformedWireData
    else if isChannel2 b0 then
      match rest with
      | [d1] => channel2OfBytes g b0 d1
      | _ => .error .malformedWireData
    else if b0 = 0xF6#8 then
      match rest with
      | [] => tuneRequestOfBytes g
      | _ => .error .malformedWireData
    else if b0 = 0xF0#8 then sysexOfBytes g rest
    else .error .malformedWireData

/-! ## Meanings -/

/-- M1_TOBYTES (R300). -/
def execM1ToBytes (e : Event) (incStart incEnd : Option Bool) (s : State) : Answer :=
  atBoundary Op.m1ToBytes.code e.wf (answer s ((toBytes e (framing incStart) (framing incEnd)).map .bytes))

/-- M1_FROMBYTES (R301). -/
def execM1FromBytes (m : List Byte) (g : Option U4) (s : State) : Answer :=
  answer s ((fromBytes m (groupOrDefault g)).map .event)

/-! A received byte message stands for M1_FROMBYTES of its bytes (assumption 5). -/

/-- M1.NOTE_OFF (R305). -/
def execM1NoteOff (g : Option U4) (ch : U4) (note vel : Byte) (s : State) : Answer :=
  answer s ((noteOffOfBytes (groupOrDefault g) ch note vel).map .event)

/-- M1.NOTE_ON (R306). -/
def execM1NoteOn (g : Option U4) (ch : U4) (note vel : Byte) (s : State) : Answer :=
  answer s ((noteOnOfBytes (groupOrDefault g) ch note vel).map .event)

/-- M1.POLY_PRESSURE (R307). -/
def execM1PolyPressure (g : Option U4) (ch : U4) (note amount : Byte) (s : State) : Answer :=
  answer s ((polyPressureOfBytes (groupOrDefault g) ch note amount).map .event)

/-- M1.CONTROL_CHANGE (R308). -/
def execM1ControlChange (g : Option U4) (ch : U4) (controller value : Byte) (s : State) : Answer :=
  answer s ((controlChangeOfBytes (groupOrDefault g) ch controller value).map .event)

/-- M1.PROGRAM_CHANGE (R309). -/
def execM1ProgramChange (g : Option U4) (ch : U4) (program : Byte) (s : State) : Answer :=
  answer s ((programChangeOfBytes (groupOrDefault g) ch program).map .event)

/-- M1.CHANNEL_PRESSURE (R310). -/
def execM1ChannelPressure (g : Option U4) (ch : U4) (amount : Byte) (s : State) : Answer :=
  answer s ((channelPressureOfBytes (groupOrDefault g) ch amount).map .event)

/-- M1.PITCH_BEND (R311). -/
def execM1PitchBend (g : Option U4) (ch : U4) (lsb msb : Byte) (s : State) : Answer :=
  answer s ((pitchBendOfBytes (groupOrDefault g) ch lsb msb).map .event)

/-- M1.TUNE_REQUEST (R312). -/
def execM1TuneRequest (g : Option U4) (s : State) : Answer :=
  answer s ((tuneRequestOfBytes (groupOrDefault g)).map .event)

/-- M1.SYSEX (R313). -/
def execM1Sysex (g : Option U4) (rest : List Byte) (s : State) : Answer :=
  answer s ((sysexOfBytes (groupOrDefault g) rest).map .event)

end Sys2Proof.Machine
end

