-- ==== Sys2Proof/Machine/Stream.lean ====
section
/-! DEFINITION. The streaming segmenter and the streaming reassembler, the RESET command, and the MT 0x3 packet wire forms
(43_sysex7_chunker.md sections 3, 5 and 6, 70_reset_and_hazards.md R701). -/

namespace Sys2Proof.Machine

/-! ## The segmenter -/

/-- `SEG` after loading `d` for group `g` (R510): an empty load leaves it at its reset value. -/
def segLoaded (d : List U7) (g : U4) : SegContext :=
  if d.length = 0 then SegContext.idle
  else { active := true, data := d, len := d.length, pos := 0, group := g }

/-- SX_SEG_LOAD (R510). -/
def execSxSegLoad (d : List U7) (g : U4) (s : State) : Answer :=
  if s.withinCapacity d.length then returnOk (s.setSeg (segLoaded d g)) .none
  else raise s .refusedCapacity

/-- `SEG` after emitting the stride at its position (R511). -/
def segAdvanced (c : SegContext) : SegContext :=
  let n := min Config.packetCapacity (c.len - c.pos)
  if c.pos + n = c.len then SegContext.idle else { c with pos := c.pos + n }

/-- SX_SEG_NEXT (R511). -/
def execSxSegNext (s : State) : Answer :=
  if s.seg.active then
    returnOk (s.setSeg (segAdvanced s.seg)) (.segOut (.packet (stride s.seg.data s.seg.group s.seg.pos)))
  else returnOk s (.segOut .done)

/-! ## The reassembler -/

/-- Append a packet's bytes to an active message, or refuse when `P_SX_MAX` is exceeded, which clears the context
(R520, R523). -/
def appendWithin (s : State) (g : U4) (b : List U7) (k : List U7 → Answer) : Answer :=
  let buf := (s.raOf g).buf
  if s.withinCapacity (buf.length + b.length) then k (buf ++ b) else raise (s.clearRa g) .refusedCapacity

/-- One valid packet of group `g`, status `st` and bytes `b`: the rows of R521. -/
def pushValid (s : State) (g : U4) (st : PacketStatus) (b : List U7) : Answer :=
  match (s.raOf g).active, st with
  | false, .complete => returnOk s (.reasmOut (.message g b))
  | false, .start => returnOk (s.setRa g { active := true, buf := b }) (.reasmOut .none)
  | false, .cont => raise s .malformedWireData
  | false, .fin => raise s .malformedWireData
  | true, .cont =>
    appendWithin s g b fun m => returnOk (s.setRa g { active := true, buf := m }) (.reasmOut .none)
  | true, .fin => appendWithin s g b fun m => returnOk (s.clearRa g) (.reasmOut (.message g m))
  | true, .start => raise (s.clearRa g) .malformedWireData
  | true, .complete => raise (s.clearRa g) .malformedWireData

/-- Offer one packet to the reassembler: message type, then validity, then sequence, then capacity (R520, R607). -/
def pushPacket (s : State) (p : Packet) : Answer :=
  if msgType p.w1 ≠ 0x3#4 then raise s .malformedWireData
  else
    let g := groupOf p.w1
    match packetStatus? p with
    | none => raise (s.clearRa g) .malformedWireData
    | some st => if bodyValid p then pushValid s g st (packetBytes p) else raise (s.clearRa g) .malformedWireData

/-- SX_REASM_PUSH (R520). -/
def execSxReasmPush (w1 w2 : Word) (s : State) : Answer := pushPacket s { w1 := w1, w2 := w2 }

/-- SX_REASM_RESET (R522). -/
def execSxReasmReset (sel : Option ReasmSel) (s : State) : Answer :=
  match selOrDefault sel with
  | .all => returnOk s.clearAllRa .none
  | .group g => returnOk (s.clearRa g) .none

/-! ## RESET -/

/-- RESET (R701): SEG and every RA[g] to their reset values. -/
def execReset (s : State) : Answer := returnOk (s.setSeg SegContext.idle).clearAllRa .none

/-! ## MT 0x3 packets: a received packet is offered to the reassembler (assumption 6) -/

/-- The packet of the fields of an MT 0x3 wire form (R153). -/
def mt3Packet (g : U4) (st : PacketStatus) (n : U4) (d0 d1 d2 d3 d4 d5 : Byte) : Packet :=
  { w1 := word4 (headByte 0x3 g) (byteOf st.code n) d0 d1, w2 := word4 d2 d3 d4 d5 }

/-- UMP3.SYSEX7_COMPLETE (R530). -/
def execUmp3Complete (g n : U4) (d0 d1 d2 d3 d4 d5 : Byte) (s : State) : Answer :=
  pushPacket s (mt3Packet g .complete n d0 d1 d2 d3 d4 d5)

/-- UMP3.SYSEX7_START (R531). -/
def execUmp3Start (g n : U4) (d0 d1 d2 d3 d4 d5 : Byte) (s : State) : Answer :=
  pushPacket s (mt3Packet g .start n d0 d1 d2 d3 d4 d5)

/-- UMP3.SYSEX7_CONTINUE (R532). -/
def execUmp3Continue (g n : U4) (d0 d1 d2 d3 d4 d5 : Byte) (s : State) : Answer :=
  pushPacket s (mt3Packet g .cont n d0 d1 d2 d3 d4 d5)

/-- UMP3.SYSEX7_END (R533). -/
def execUmp3End (g n : U4) (d0 d1 d2 d3 d4 d5 : Byte) (s : State) : Answer :=
  pushPacket s (mt3Packet g .fin n d0 d1 d2 d3 d4 d5)

end Sys2Proof.Machine
end

