-- ==== Sys2Proof/Machine/Ump.lean ====
section
/-! DEFINITION. The UMP word packer and unpacker: one encode and one decode for each wire form, UMP_TOWORDS and UMP_FROMWORDS,
and the wire forms of message types 0x1, 0x2 and 0x4 (42_ump_words.md). -/

namespace Sys2Proof.Machine

/-! ## MT 0x1 -/

/-- R405, encode. -/
def tuneRequestWords (g : U4) : Except ErrorKind (List Word) := .ok [word4 (headByte 0x1 g) 0xF6#8 0x00#8 0x00#8]

/-- R405, decode: the two low bytes are reserved and ignored. -/
def mt1TuneRequest (g : U4) (_reserved : U16) : Except ErrorKind Event := .ok (.tuneRequest g)

/-! ## MT 0x2, encode (protocol P1): `word(0x20 | g, b0, b1, b2)` -/

/-- R410, encode. -/
def noteOffWord (g ch : U4) (note : U7) (vel : U16) (aty : Byte) (ad : U16) : Except ErrorKind (List Word) :=
  if aty ≠ 0#8 ∨ ad ≠ 0#16 then .error .unsupportedProtocolCombination
  else .ok [word4 (headByte 0x2 g) (byteOf 0x8 ch) (byte7 note) (velByte vel)]

/-- R411, encode. -/
def noteOnWord (g ch : U4) (note : U7) (vel : U16) (aty : Byte) (ad : U16) : Except ErrorKind (List Word) :=
  if aty ≠ 0#8 ∨ ad ≠ 0#16 then .error .unsupportedProtocolCombination
  else .ok [word4 (headByte 0x2 g) (byteOf 0x9 ch) (byte7 note) (velByte vel)]

/-- R412, encode. -/
def polyPressureWord (g ch : U4) (note : U7) (amount : U32) : Except ErrorKind (List Word) :=
  .ok [word4 (headByte 0x2 g) (byteOf 0xA ch) (byte7 note) (amtByte amount)]

/-- R413, encode. -/
def controlChangeWord (g ch : U4) (controller : U7) (value : U32) : Except ErrorKind (List Word) :=
  .ok [word4 (headByte 0x2 g) (byteOf 0xB ch) (byte7 controller) (ccvByte value)]

/-- R414, encode: the last byte is padding. -/
def programChangeWord (g ch : U4) (program : U7) (bank : Bank) : Except ErrorKind (List Word) :=
  if bank = .noBank then .ok [word4 (headByte 0x2 g) (byteOf 0xC ch) (byte7 program) 0x00#8]
  else .error .unsupportedProtocolCombination

/-- R415, encode: the last byte is padding. -/
def channelPressureWord (g ch : U4) (amount : U32) : Except ErrorKind (List Word) :=
  .ok [word4 (headByte 0x2 g) (byteOf 0xD ch) (amtByte amount) 0x00#8]

/-- R416, encode. -/
def pitchBendWord (g ch : U4) (value : U32) : Except ErrorKind (List Word) :=
  .ok [word4 (headByte 0x2 g) (byteOf 0xE ch) (bendLsb (pbvM1 value)) (bendMsb (pbvM1 value))]

/-! ## MT 0x2, decode -/

/-- R410, decode. -/
def mt2NoteOff (g ch : U4) (b1 b2 : Byte) : Except ErrorKind Event :=
  with7x2 b1 b2 (.noteOff g ch (low7 b1) (velOfByte b2) 0#8 0#16)

/-- R411, decode. -/
def mt2NoteOn (g ch : U4) (b1 b2 : Byte) : Except ErrorKind Event :=
  with7x2 b1 b2 (.noteOn g ch (low7 b1) (velOfByte b2) 0#8 0#16)

/-- R412, decode. -/
def mt2PolyPressure (g ch : U4) (b1 b2 : Byte) : Except ErrorKind Event :=
  with7x2 b1 b2 (.polyPressure g ch (low7 b1) (amtOfByte b2))

/-- R413, decode. -/
def mt2ControlChange (g ch : U4) (b1 b2 : Byte) : Except ErrorKind Event :=
  with7x2 b1 b2 (.controlChange g ch (low7 b1) (ccvOfByte b2))

/-- R414, decode: b2 is padding, ignored. -/
def mt2ProgramChange (g ch : U4) (b1 _b2 : Byte) : Except ErrorKind Event :=
  with7 b1 (.programChange g ch (low7 b1) .noBank)

/-- R415, decode: b2 is padding, ignored. -/
def mt2ChannelPressure (g ch : U4) (b1 _b2 : Byte) : Except ErrorKind Event :=
  with7 b1 (.channelPressure g ch (amtOfByte b1))

/-- R416, decode. -/
def mt2PitchBend (g ch : U4) (b1 b2 : Byte) : Except ErrorKind Event :=
  with7x2 b1 b2 (.pitchBend g ch (pbvOfM1 (bendJoin b1 b2)))

/-! ## MT 0x4, encode (protocol P2): `w1 = word(0x40 | g, (S << 4) | ch, f1, f2)` -/

/-- R420, encode. -/
def noteOffWords (g ch : U4) (note : U7) (vel : U16) (aty : Byte) (ad : U16) : Except ErrorKind (List Word) :=
  .ok [word4 (headByte 0x4 g) (byteOf 0x8 ch) (byte7 note) aty, word16 vel ad]

/-- R421, encode. -/
def noteOnWords (g ch : U4) (note : U7) (vel : U16) (aty : Byte) (ad : U16) : Except ErrorKind (List Word) :=
  .ok [word4 (headByte 0x4 g) (byteOf 0x9 ch) (byte7 note) aty, word16 vel ad]

/-- R422, encode. -/
def polyPressureWords (g ch : U4) (note : U7) (amount : U32) : Except ErrorKind (List Word) :=
  .ok [word4 (headByte 0x4 g) (byteOf 0xA ch) (byte7 note) 0x00#8, amount]

/-- R423, encode. -/
def controlChangeWords (g ch : U4) (controller : U7) (value : U32) : Except ErrorKind (List Word) :=
  .ok [word4 (headByte 0x4 g) (byteOf 0xB ch) (byte7 controller) 0x00#8, value]

/-- R424, encode. -/
def programChangeWords (g ch : U4) (program : U7) (bank : Bank) : Except ErrorKind (List Word) :=
  match bank with
  | .bank msb lsb =>
    .ok [word4 (headByte 0x4 g) (byteOf 0xC ch) 0x00#8 0x01#8, word4 (byte7 program) 0x00#8 (byte7 msb) (byte7 lsb)]
  | .noBank =>
    .ok [word4 (headByte 0x4 g) (byteOf 0xC ch) 0x00#8 0x00#8, word4 (byte7 program) 0x00#8 0x00#8 0x00#8]

/-- R425, encode. -/
def channelPressureWords (g ch : U4) (amount : U32) : Except ErrorKind (List Word) :=
  .ok [word4 (headByte 0x4 g) (byteOf 0xD ch) 0x00#8 0x00#8, amount]

/-- R426, encode. -/
def pitchBendWords (g ch : U4) (value : U32) : Except ErrorKind (List Word) :=
  .ok [word4 (headByte 0x4 g) (byteOf 0xE ch) 0x00#8 0x00#8, value]

/-- R427, encode. -/
def pncRegisteredWords (g ch : U4) (note : U7) (index : Byte) (value : U32) : Except ErrorKind (List Word) :=
  .ok [word4 (headByte 0x4 g) (byteOf 0x0 ch) (byte7 note) index, value]

/-- R428, encode. -/
def pncAssignableWords (g ch : U4) (note : U7) (index : Byte) (value : U32) : Except ErrorKind (List Word) :=
  .ok [word4 (headByte 0x4 g) (byteOf 0x1 ch) (byte7 note) index, value]

/-! ## MT 0x4, decode -/

/-- R420, decode. -/
def mt4NoteOff (g ch : U4) (note aty : Byte) (vel ad : U16) : Except ErrorKind Event :=
  with7 note (.noteOff g ch (low7 note) vel aty ad)

/-- R421, decode. -/
def mt4NoteOn (g ch : U4) (note aty : Byte) (vel ad : U16) : Except ErrorKind Event :=
  with7 note (.noteOn g ch (low7 note) vel aty ad)

/-- R422, decode: the last byte of w1 is reserved and ignored. -/
def mt4PolyPressure (g ch : U4) (note _reserved : Byte) (amount : U32) : Except ErrorKind Event :=
  with7 note (.polyPressure g ch (low7 note) amount)

/-- R423, decode: the last byte of w1 is reserved and ignored. -/
def mt4ControlChange (g ch : U4) (controller _reserved : Byte) (value : U32) : Except ErrorKind Event :=
  with7 controller (.controlChange g ch (low7 controller) value)

/-- R424, decode: option bit 0 is B; the other option bits, w1[15:8] and w2[23:16] are reserved, and so are the bank bytes
when B = 0. -/
def mt4ProgramChange (g ch : U4) (_reserved options program _reserved2 msb lsb : Byte) : Except ErrorKind Event :=
  if options.getLsbD 0 then
    if is7 program && is7 msb && is7 lsb then
      .ok (.programChange g ch (low7 program) (.bank (low7 msb) (low7 lsb)))
    else .error .malformedWireData
  else with7 program (.programChange g ch (low7 program) .noBank)

/-- R425, decode: w1[15:0] is reserved and ignored. -/
def mt4ChannelPressure (g ch : U4) (_reserved : U16) (amount : U32) : Except ErrorKind Event :=
  .ok (.channelPressure g ch amount)

/-- R426, decode: w1[15:0] is reserved and ignored. -/
def mt4PitchBend (g ch : U4) (_reserved : U16) (value : U32) : Except ErrorKind Event :=
  .ok (.pitchBend g ch value)

/-- R427, decode. -/
def mt4PncRegistered (g ch : U4) (note index : Byte) (value : U32) : Except ErrorKind Event :=
  with7 note (.pncRegistered g ch (low7 note) index value)

/-- R428, decode. -/
def mt4PncAssignable (g ch : U4) (note index : Byte) (value : U32) : Except ErrorKind Event :=
  with7 note (.pncAssignable g ch (low7 note) index value)

/-! ## SysEx (MT 0x3) -/

/-- The words of a sequence of packets, `flatten` (R22, R430). -/
def flattenPackets (ps : List Packet) : List Word := ps.flatMap fun p => [p.w1, p.w2]

/-- The packets of a sequence of words of even length (R430). -/
def pairWords : List Word → List Packet
  | a :: b :: rest => { w1 := a, w2 := b } :: pairWords rest
  | _ => []

/-- R430, encode. -/
def sysexWords (e : Event) : Except ErrorKind (List Word) := .ok (flattenPackets (chunk (frame e) e.group))

/-- R430, decode, of a non-empty sequence of packets. -/
def sysexOfPackets (ps : List Packet) (g : U4) : Except ErrorKind Event :=
  if ps.all fun p => msgType p.w1 == 0x3#4 && groupOf p.w1 == g then
    (unchunk ps).bind fun d => parse (d.map byte7) g
  else .error .malformedWireData

/-! ## The two commands -/

/-- `UMP_TOWORDS` (R400). -/
def toWords (e : Event) (p : Protocol) : Except ErrorKind (List Word) :=
  match e, p with
  | .tuneRequest g, _ => tuneRequestWords g
  | .sysex7 _ _ _, _ => sysexWords e
  | .universalSysex7 _ _ _ _ _ _, _ => sysexWords e
  | .pncRegistered _ _ _ _ _, .p1 => .error .unsupportedProtocolCombination
  | .pncAssignable _ _ _ _ _, .p1 => .error .unsupportedProtocolCombination
  | .pncRegistered g ch note index value, .p2 => pncRegisteredWords g ch note index value
  | .pncAssignable g ch note index value, .p2 => pncAssignableWords g ch note index value
  | .noteOff g ch note vel aty ad, .p1 => noteOffWord g ch note vel aty ad
  | .noteOn g ch note vel aty ad, .p1 => noteOnWord g ch note vel aty ad
  | .polyPressure g ch note amount, .p1 => polyPressureWord g ch note amount
  | .controlChange g ch controller value, .p1 => controlChangeWord g ch controller value
  | .programChange g ch program bank, .p1 => programChangeWord g ch program bank
  | .channelPressure g ch amount, .p1 => channelPressureWord g ch amount
  | .pitchBend g ch value, .p1 => pitchBendWord g ch value
  | .noteOff g ch note vel aty ad, .p2 => noteOffWords g ch note vel aty ad
  | .noteOn g ch note vel aty ad, .p2 => noteOnWords g ch note vel aty ad
  | .polyPressure g ch note amount, .p2 => polyPressureWords g ch note amount
  | .controlChange g ch controller value, .p2 => controlChangeWords g ch controller value
  | .programChange g ch program bank, .p2 => programChangeWords g ch program bank
  | .channelPressure g ch amount, .p2 => channelPressureWords g ch amount
  | .pitchBend g ch value, .p2 => pitchBendWords g ch value

/-- One MT 0x1 word (R401): only the tune request is defined. -/
def mt1OfWord (w : Word) : Except ErrorKind Event :=
  if byte1 w = 0xF6#8 then mt1TuneRequest (groupOf w) (lo16 w) else .error .malformedWireData

/-- One MT 0x2 word, by its status (R401). -/
def mt2OfWord (w : Word) : Except ErrorKind Event :=
  match (statusOf w).toNat with
  | 0x8 => mt2NoteOff (groupOf w) (channelOf w) (byte2 w) (byte3 w)
  | 0x9 => mt2NoteOn (groupOf w) (channelOf w) (byte2 w) (byte3 w)
  | 0xA => mt2PolyPressure (groupOf w) (channelOf w) (byte2 w) (byte3 w)
  | 0xB => mt2ControlChange (groupOf w) (channelOf w) (byte2 w) (byte3 w)
  | 0xC => mt2ProgramChange (groupOf w) (channelOf w) (byte2 w) (byte3 w)
  | 0xD => mt2ChannelPressure (groupOf w) (channelOf w) (byte2 w) (byte3 w)
  | 0xE => mt2PitchBend (groupOf w) (channelOf w) (byte2 w) (byte3 w)
  | _ => .error .malformedWireData

/-- The two words of an MT 0x4 packet, by its status (R401). -/
def mt4OfWords (w1 w2 : Word) : Except ErrorKind Event :=
  match (statusOf w1).toNat with
  | 0x0 => mt4PncRegistered (groupOf w1) (channelOf w1) (byte2 w1) (byte3 w1) w2
  | 0x1 => mt4PncAssignable (groupOf w1) (channelOf w1) (byte2 w1) (byte3 w1) w2
  | 0x8 => mt4NoteOff (groupOf w1) (channelOf w1) (byte2 w1) (byte3 w1) (hi16 w2) (lo16 w2)
  | 0x9 => mt4NoteOn (groupOf w1) (channelOf w1) (byte2 w1) (byte3 w1) (hi16 w2) (lo16 w2)
  | 0xA => mt4PolyPressure (groupOf w1) (channelOf w1) (byte2 w1) (byte3 w1) w2
  | 0xB => mt4ControlChange (groupOf w1) (channelOf w1) (byte2 w1) (byte3 w1) w2
  | 0xC => mt4ProgramChange (groupOf w1) (channelOf w1) (byte2 w1) (byte3 w1) (byte0 w2) (byte1 w2) (byte2 w2) (byte3 w2)
  | 0xD => mt4ChannelPressure (groupOf w1) (channelOf w1) (lo16 w1) w2
  | 0xE => mt4PitchBend (groupOf w1) (channelOf w1) (lo16 w1) w2
  | _ => .error .malformedWireData

/-- `UMP_FROMWORDS` (R401): exactly one message; no protocol operand (R177). -/
def fromWords (ws : List Word) : Except ErrorKind Event :=
  match ws with
  | [] => .error .malformedWireData
  | w1 :: rest =>
    match (msgType w1).toNat with
    | 0x1 => if rest = [] then mt1OfWord w1 else .error .malformedWireData
    | 0x2 => if rest = [] then mt2OfWord w1 else .error .malformedWireData
    | 0x3 =>
      if ws.length % 2 = 0 then sysexOfPackets (pairWords ws) (groupOf w1) else .error .malformedWireData
    | 0x4 =>
      match rest with
      | [w2] => mt4OfWords w1 w2
      | _ => .error .malformedWireData
    | _ => .error .malformedWireData

/-! ## Meanings -/

/-- UMP_TOWORDS (R400). -/
def execUmpToWords (e : Event) (p : Protocol) (s : State) : Answer :=
  atBoundary Op.umpToWords.code e.wf (answer s ((toWords e p).map .words))

/-- UMP_FROMWORDS (R401). -/
def execUmpFromWords (ws : List Word) (s : State) : Answer := answer s ((fromWords ws).map .event)

/-! A received message of MT 0x1, 0x2 or 0x4 stands for UMP_FROMWORDS of its words (assumption 5). -/

/-- UMP1.TUNE_REQUEST (R405). -/
def execUmp1TuneRequest (g : U4) (reserved : U16) (s : State) : Answer :=
  answer s ((mt1TuneRequest g reserved).map .event)

/-- UMP2.NOTE_OFF (R410). -/
def execUmp2NoteOff (g ch : U4) (note vel : Byte) (s : State) : Answer :=
  answer s ((mt2NoteOff g ch note vel).map .event)

/-- UMP2.NOTE_ON (R411). -/
def execUmp2NoteOn (g ch : U4) (note vel : Byte) (s : State) : Answer :=
  answer s ((mt2NoteOn g ch note vel).map .event)

/-- UMP2.POLY_PRESSURE (R412). -/
def execUmp2PolyPressure (g ch : U4) (note amount : Byte) (s : State) : Answer :=
  answer s ((mt2PolyPressure g ch note amount).map .event)

/-- UMP2.CONTROL_CHANGE (R413). -/
def execUmp2ControlChange (g ch : U4) (controller value : Byte) (s : State) : Answer :=
  answer s ((mt2ControlChange g ch controller value).map .event)

/-- UMP2.PROGRAM_CHANGE (R414). -/
def execUmp2ProgramChange (g ch : U4) (program reserved : Byte) (s : State) : Answer :=
  answer s ((mt2ProgramChange g ch program reserved).map .event)

/-- UMP2.CHANNEL_PRESSURE (R415). -/
def execUmp2ChannelPressure (g ch : U4) (amount reserved : Byte) (s : State) : Answer :=
  answer s ((mt2ChannelPressure g ch amount reserved).map .event)

/-- UMP2.PITCH_BEND (R416). -/
def execUmp2PitchBend (g ch : U4) (lsb msb : Byte) (s : State) : Answer :=
  answer s ((mt2PitchBend g ch lsb msb).map .event)

/-- UMP4.PNC_REGISTERED (R427). -/
def execUmp4PncRegistered (g ch : U4) (note index : Byte) (value : U32) (s : State) : Answer :=
  answer s ((mt4PncRegistered g ch note index value).map .event)

/-- UMP4.PNC_ASSIGNABLE (R428). -/
def execUmp4PncAssignable (g ch : U4) (note index : Byte) (value : U32) (s : State) : Answer :=
  answer s ((mt4PncAssignable g ch note index value).map .event)

/-- UMP4.NOTE_OFF (R420). -/
def execUmp4NoteOff (g ch : U4) (note aty : Byte) (vel ad : U16) (s : State) : Answer :=
  answer s ((mt4NoteOff g ch note aty vel ad).map .event)

/-- UMP4.NOTE_ON (R421). -/
def execUmp4NoteOn (g ch : U4) (note aty : Byte) (vel ad : U16) (s : State) : Answer :=
  answer s ((mt4NoteOn g ch note aty vel ad).map .event)

/-- UMP4.POLY_PRESSURE (R422). -/
def execUmp4PolyPressure (g ch : U4) (note reserved : Byte) (amount : U32) (s : State) : Answer :=
  answer s ((mt4PolyPressure g ch note reserved amount).map .event)

/-- UMP4.CONTROL_CHANGE (R423). -/
def execUmp4ControlChange (g ch : U4) (controller reserved : Byte) (value : U32) (s : State) : Answer :=
  answer s ((mt4ControlChange g ch controller reserved value).map .event)

/-- UMP4.PROGRAM_CHANGE (R424). -/
def execUmp4ProgramChange (g ch : U4) (reserved options program reserved2 msb lsb : Byte) (s : State) : Answer :=
  answer s ((mt4ProgramChange g ch reserved options program reserved2 msb lsb).map .event)

/-- UMP4.CHANNEL_PRESSURE (R425). -/
def execUmp4ChannelPressure (g ch : U4) (reserved : U16) (amount : U32) (s : State) : Answer :=
  answer s ((mt4ChannelPressure g ch reserved amount).map .event)

/-- UMP4.PITCH_BEND (R426). -/
def execUmp4PitchBend (g ch : U4) (reserved : U16) (value : U32) (s : State) : Answer :=
  answer s ((mt4PitchBend g ch reserved value).map .event)

end Sys2Proof.Machine
end

