-- ==== Sys2Proof/Machine/Dispatch.lean ====
section
/-! DEFINITION. One arm for each instruction: the meaning it calls. -/

namespace Sys2Proof.Machine

def exec (i : Instr) (s : State) : Host.Outcome State Fault Refusal :=
  match i with
  -- FM: bounded integers (40_marshaler.md R200 to R209)
  | .biFail w v => Sys2Proof.Machine.execBiFail w v s
  | .biExact w v => Sys2Proof.Machine.execBiExact w v s
  | .biClamp w v => Sys2Proof.Machine.execBiClamp w v s
  | .biTrunc w v => Sys2Proof.Machine.execBiTrunc w v s
  | .biAdd w a b => Sys2Proof.Machine.execBiAdd w a b s
  | .biSub w a b => Sys2Proof.Machine.execBiSub w a b s
  | .biMul w a b => Sys2Proof.Machine.execBiMul w a b s
  | .biDiv w a b => Sys2Proof.Machine.execBiDiv w a b s
  | .biRem w a b => Sys2Proof.Machine.execBiRem w a b s
  | .biCmp w a b => Sys2Proof.Machine.execBiCmp w a b s
  -- FM: validated values and events (R219 to R222, R230)
  | .vvFromM1 t v => Sys2Proof.Machine.execVvFromM1 t v s
  | .vvFromM2 t x => Sys2Proof.Machine.execVvFromM2 t x s
  | .vvViewM1 t mag => Sys2Proof.Machine.execVvViewM1 t mag s
  | .vvViewM2 t mag => Sys2Proof.Machine.execVvViewM2 t mag s
  | .evMake raw => Sys2Proof.Machine.execEvMake raw s
  -- BS (41_midi1_bytes.md R300, R301)
  | .m1ToBytes e incStart incEnd => Sys2Proof.Machine.execM1ToBytes e incStart incEnd s
  | .m1FromBytes m group => Sys2Proof.Machine.execM1FromBytes m group s
  -- WP (42_ump_words.md R400, R401)
  | .umpToWords e p => Sys2Proof.Machine.execUmpToWords e p s
  | .umpFromWords ws => Sys2Proof.Machine.execUmpFromWords ws s
  -- SX (43_sysex7_chunker.md)
  | .sxFrame e => Sys2Proof.Machine.execSxFrame e s
  | .sxParse d group => Sys2Proof.Machine.execSxParse d group s
  | .sxChunk d group => Sys2Proof.Machine.execSxChunk d group s
  | .sxUnchunk ps => Sys2Proof.Machine.execSxUnchunk ps s
  | .sxSegLoad d group => Sys2Proof.Machine.execSxSegLoad d group s
  | .sxSegNext => Sys2Proof.Machine.execSxSegNext s
  | .sxReasmPush w1 w2 => Sys2Proof.Machine.execSxReasmPush w1 w2 s
  | .sxReasmReset sel => Sys2Proof.Machine.execSxReasmReset sel s
  -- DG and all units (R580, R701)
  | .hexFormat m sep => Sys2Proof.Machine.execHexFormat m sep s
  | .reset => Sys2Proof.Machine.execReset s
  -- MIDI 1.0 byte messages (R305 to R313)
  | .m1NoteOff group channel note velocity => Sys2Proof.Machine.execM1NoteOff group channel note velocity s
  | .m1NoteOn group channel note velocity => Sys2Proof.Machine.execM1NoteOn group channel note velocity s
  | .m1PolyPressure group channel note amount => Sys2Proof.Machine.execM1PolyPressure group channel note amount s
  | .m1ControlChange group channel controller value => Sys2Proof.Machine.execM1ControlChange group channel controller value s
  | .m1ProgramChange group channel program => Sys2Proof.Machine.execM1ProgramChange group channel program s
  | .m1ChannelPressure group channel amount => Sys2Proof.Machine.execM1ChannelPressure group channel amount s
  | .m1PitchBend group channel lsb msb => Sys2Proof.Machine.execM1PitchBend group channel lsb msb s
  | .m1TuneRequest group => Sys2Proof.Machine.execM1TuneRequest group s
  | .m1Sysex group rest => Sys2Proof.Machine.execM1Sysex group rest s
  -- UMP message type 0x1 (R405)
  | .ump1TuneRequest group reserved => Sys2Proof.Machine.execUmp1TuneRequest group reserved s
  -- UMP message type 0x2 (R410 to R416)
  | .ump2NoteOff group channel note velocity => Sys2Proof.Machine.execUmp2NoteOff group channel note velocity s
  | .ump2NoteOn group channel note velocity => Sys2Proof.Machine.execUmp2NoteOn group channel note velocity s
  | .ump2PolyPressure group channel note amount => Sys2Proof.Machine.execUmp2PolyPressure group channel note amount s
  | .ump2ControlChange group channel controller value => Sys2Proof.Machine.execUmp2ControlChange group channel controller value s
  | .ump2ProgramChange group channel program reserved => Sys2Proof.Machine.execUmp2ProgramChange group channel program reserved s
  | .ump2ChannelPressure group channel amount reserved => Sys2Proof.Machine.execUmp2ChannelPressure group channel amount reserved s
  | .ump2PitchBend group channel lsb msb => Sys2Proof.Machine.execUmp2PitchBend group channel lsb msb s
  -- UMP message type 0x4 (R420 to R428)
  | .ump4PncRegistered group channel note index value => Sys2Proof.Machine.execUmp4PncRegistered group channel note index value s
  | .ump4PncAssignable group channel note index value => Sys2Proof.Machine.execUmp4PncAssignable group channel note index value s
  | .ump4NoteOff group channel note attrType velocity attrData => Sys2Proof.Machine.execUmp4NoteOff group channel note attrType velocity attrData s
  | .ump4NoteOn group channel note attrType velocity attrData => Sys2Proof.Machine.execUmp4NoteOn group channel note attrType velocity attrData s
  | .ump4PolyPressure group channel note reserved amount => Sys2Proof.Machine.execUmp4PolyPressure group channel note reserved amount s
  | .ump4ControlChange group channel controller reserved value => Sys2Proof.Machine.execUmp4ControlChange group channel controller reserved value s
  | .ump4ProgramChange group channel reserved options program reserved2 bankMsb bankLsb => Sys2Proof.Machine.execUmp4ProgramChange group channel reserved options program reserved2 bankMsb bankLsb s
  | .ump4ChannelPressure group channel reserved amount => Sys2Proof.Machine.execUmp4ChannelPressure group channel reserved amount s
  | .ump4PitchBend group channel reserved value => Sys2Proof.Machine.execUmp4PitchBend group channel reserved value s
  -- UMP message type 0x3 (R530 to R533)
  | .ump3Complete group count d0 d1 d2 d3 d4 d5 => Sys2Proof.Machine.execUmp3Complete group count d0 d1 d2 d3 d4 d5 s
  | .ump3Start group count d0 d1 d2 d3 d4 d5 => Sys2Proof.Machine.execUmp3Start group count d0 d1 d2 d3 d4 d5 s
  | .ump3Continue group count d0 d1 d2 d3 d4 d5 => Sys2Proof.Machine.execUmp3Continue group count d0 d1 d2 d3 d4 d5 s
  | .ump3End group count d0 d1 d2 d3 d4 d5 => Sys2Proof.Machine.execUmp3End group count d0 d1 d2 d3 d4 d5 s

end Sys2Proof.Machine
end

