-- ==== Sys2Proof/Machine/Step.lean ====
section
/-! DEFINITION. One step: take the oldest input off the command port, decode it at the command boundary, execute it. -/

namespace Sys2Proof.Machine

/-- One step (R112, R133). With nothing presented nothing happens (assumption 2). An input the command boundary refuses is
refused by name (R606); any other is executed on the state whose port no longer holds it. -/
def step (s : State) : Host.Outcome State Fault Refusal :=
  match s.port with
  | [] => .next s
  | input :: rest =>
    match decodeInput input with
    | .error r => .refused (.boundary r)
    | .ok i => exec i (s.withPort rest)

/-- `s` with the input of an opcode-table word presented as the next input, in the place of the oldest one (assumption 1). -/
def State.withFetchWord (s : State) (nbits w : Nat) : State :=
  s.withPort (inputOfTableWord nbits w :: s.port.tail)

end Sys2Proof.Machine
end

