-- ==== Sys2Proof/Machine/Classify.lean ====
section
/-! DEFINITION. The classification table of the event kinds (30_encoding.md R160), as data, and what its lengths mean. -/

namespace Sys2Proof.Machine

/-- A length of R160: a number, or the SysEx length that depends on `L = len(SX_FRAME(e))`. -/
inductive FormLength where
  | fixed (n : Nat)
  | sysex
deriving DecidableEq, Repr

/-- One row of R160. `midi1` is the status byte with channel 0 and the byte count, `none` where the table has a dash;
`p1` is the message type and the word count under P1; `p2` the message type, the MT 0x4 status where there is one, and the
word count under P2. -/
structure Classification where
  midi1 : Option (Byte × FormLength)
  p1 : Option (U4 × FormLength)
  p2 : U4 × Option U4 × FormLength
deriving DecidableEq, Repr

/-- The classification of every kind (R160). -/
def classification : Kind → Classification
  | .noteOff => ⟨some (0x80, .fixed 3), some (0x2, .fixed 1), (0x4, some 0x8, .fixed 2)⟩
  | .noteOn => ⟨some (0x90, .fixed 3), some (0x2, .fixed 1), (0x4, some 0x9, .fixed 2)⟩
  | .polyPressure => ⟨some (0xA0, .fixed 3), some (0x2, .fixed 1), (0x4, some 0xA, .fixed 2)⟩
  | .controlChange => ⟨some (0xB0, .fixed 3), some (0x2, .fixed 1), (0x4, some 0xB, .fixed 2)⟩
  | .programChange => ⟨some (0xC0, .fixed 2), some (0x2, .fixed 1), (0x4, some 0xC, .fixed 2)⟩
  | .channelPressure => ⟨some (0xD0, .fixed 2), some (0x2, .fixed 1), (0x4, some 0xD, .fixed 2)⟩
  | .pitchBend => ⟨some (0xE0, .fixed 3), some (0x2, .fixed 1), (0x4, some 0xE, .fixed 2)⟩
  | .pncRegistered => ⟨none, none, (0x4, some 0x0, .fixed 2)⟩
  | .pncAssignable => ⟨none, none, (0x4, some 0x1, .fixed 2)⟩
  | .tuneRequest => ⟨some (0xF6, .fixed 1), some (0x1, .fixed 1), (0x1, none, .fixed 1)⟩
  | .sysex7 => ⟨some (0xF0, .sysex), some (0x3, .sysex), (0x3, none, .sysex)⟩
  | .universalSysex7 => ⟨some (0xF0, .sysex), some (0x3, .sysex), (0x3, none, .sysex)⟩

/-- The number of MIDI 1.0 bytes a length of R160 stands for. -/
def FormLength.byteCount (e : Event) (incStart incEnd : Bool) : FormLength → Nat
  | .fixed n => n
  | .sysex => (frame e).length + incStart.toNat + incEnd.toNat

/-- `⌈n/6⌉`, the number of packets of a data sequence of `n` bytes (R160, R507). -/
def packetCount (n : Nat) : Nat := (n + (Config.packetCapacity - 1)) / Config.packetCapacity

/-- The number of UMP words a length of R160 stands for. -/
def FormLength.wordCount (e : Event) : FormLength → Nat
  | .fixed n => n
  | .sysex => 2 * packetCount (frame e).length

/-- The MIDI 2.0-only field values that no MIDI 1.0 form can carry: a note attribute or a bank (R604). -/
def has2Only : Event → Bool
  | .noteOff _ _ _ _ aty ad => decide (aty ≠ 0#8) || decide (ad ≠ 0#16)
  | .noteOn _ _ _ _ aty ad => decide (aty ≠ 0#8) || decide (ad ≠ 0#16)
  | .programChange _ _ _ bank => decide (bank ≠ .noBank)
  | .polyPressure _ _ _ _ => false
  | .controlChange _ _ _ _ => false
  | .channelPressure _ _ _ => false
  | .pitchBend _ _ _ => false
  | .pncRegistered _ _ _ _ _ => false
  | .pncAssignable _ _ _ _ _ => false
  | .tuneRequest _ => false
  | .sysex7 _ _ _ => false
  | .universalSysex7 _ _ _ _ _ _ => false

/-- `proj1(e)`: every validated value replaced by the one its MIDI 1.0 view widens to (R315). -/
def proj1 : Event → Event
  | .noteOff g c n v aty ad => .noteOff g c n (BitVec.ofNat 16 (magOfM1 .vel (viewM1 .vel v.toNat))) aty ad
  | .noteOn g c n v aty ad => .noteOn g c n (BitVec.ofNat 16 (magOfM1 .vel (viewM1 .vel v.toNat))) aty ad
  | .polyPressure g c n a => .polyPressure g c n (BitVec.ofNat 32 (magOfM1 .amt (viewM1 .amt a.toNat)))
  | .controlChange g c n v => .controlChange g c n (BitVec.ofNat 32 (magOfM1 .ccv (viewM1 .ccv v.toNat)))
  | .programChange g c p b => .programChange g c p b
  | .channelPressure g c a => .channelPressure g c (BitVec.ofNat 32 (magOfM1 .amt (viewM1 .amt a.toNat)))
  | .pitchBend g c v => .pitchBend g c (BitVec.ofNat 32 (magOfM1 .pbv (viewM1 .pbv v.toNat)))
  | .pncRegistered g c n i v => .pncRegistered g c n i v
  | .pncAssignable g c n i v => .pncAssignable g c n i v
  | .tuneRequest g => .tuneRequest g
  | .sysex7 g m d => .sysex7 g m d
  | .universalSysex7 g k dev s1 s2 d => .universalSysex7 g k dev s1 s2 d

end Sys2Proof.Machine
end

