-- ==== Sys2Proof/Machine/Flags.lean ====
section
/-! DEFINITION. The block has no flags and no condition codes (10_state.md R53); the status field of the response is the only
status it reports (R72), and this file gives it. -/

namespace Sys2Proof.Machine

/-- The status codes of the errors (R601). -/
def ErrorKind.code : ErrorKind → Nat
  | .rangeError => 1
  | .malformedWireData => 2
  | .unsupportedProtocolCombination => 3
  | .refusedCapacity => 4

/-- The status code of a response (R72, R601). -/
def Response.status : Response → Nat
  | .ok _ => 0
  | .error k => k.code

/-- The result of a response, present only when the status is OK (R72). -/
def Response.result? : Response → Option Result
  | .ok r => some r
  | .error _ => none

end Sys2Proof.Machine
end

