-- ==== Sys2Proof/Safety.lean ====
section
/-! DEFINITION. The terms the statements use: how an instruction ends, which contexts it may touch, the invariant of a run,
what EV_MAKE's raw fields have to be, and the wire layouts in plain arithmetic, apart from the bit operations of the machine. -/

namespace Sys2Proof.Machine

/-! ## How an instruction ends -/

/-- `i` completes in `s` with response `r` and changes nothing but the response port. -/
def Answers (i : Instr) (s : State) (r : Response) : Prop := exec i s = .next { s with response := some r }

/-- `i` completes in `s` with response `r`, leaves `SEG` as `c`, and changes nothing else. -/
def WritesSeg (i : Instr) (s : State) (c : SegContext) (r : Response) : Prop :=
  exec i s = .next { s with seg := c, response := some r }

/-- `i` completes in `s` with response `r`, leaves `RA[g]` as `c`, and changes nothing else: no other reassembly context,
no segmenter field, not the port and not the parameter. -/
def WritesRa (i : Instr) (s : State) (g : U4) (c : ReasmContext) (r : Response) : Prop :=
  ∃ t, exec i s = .next t ∧ t.response = some r ∧ t.raOf g = c ∧ (∀ h, h ≠ g → t.raOf h = s.raOf h) ∧
    t.seg = s.seg ∧ t.port = s.port ∧ t.pSxMax = s.pSxMax

/-- The responses to the instructions of a list that `sel` selects, when the list is executed in order from `s`. -/
def responsesTo (sel : Instr → Bool) : List Instr → State → List Response
  | [], _ => []
  | i :: rest, s =>
    match exec i s with
    | .next t => (if sel i then t.response.toList else []) ++ responsesTo sel rest t
    | .fault _ => []
    | .refused _ => []

/-- The state after a list of instructions is executed in order, if every one of them completes. -/
def after : List Instr → State → Option State
  | [], s => some s
  | i :: rest, s =>
    match exec i s with
    | .next t => after rest t
    | .fault _ => none
    | .refused _ => none

/-! ## Which contexts an instruction may touch -/

/-- What an instruction may write (R85, R109). -/
inductive Effect where
  | none
  | segmenter
  | context (g : U4)
  | contexts
  | everything
deriving DecidableEq, Repr

/-- The side effect of each instruction: only SX_SEG_LOAD, SX_SEG_NEXT, SX_REASM_PUSH, SX_REASM_RESET and RESET have one
(R109), and the MT 0x3 wire forms, which stand for SX_REASM_PUSH (assumption 6). -/
def effectOf : Instr → Effect
  | .biFail _ _ => .none
  | .biExact _ _ => .none
  | .biClamp _ _ => .none
  | .biTrunc _ _ => .none
  | .biAdd _ _ _ => .none
  | .biSub _ _ _ => .none
  | .biMul _ _ _ => .none
  | .biDiv _ _ _ => .none
  | .biRem _ _ _ => .none
  | .biCmp _ _ _ => .none
  | .vvFromM1 _ _ => .none
  | .vvFromM2 _ _ => .none
  | .vvViewM1 _ _ => .none
  | .vvViewM2 _ _ => .none
  | .evMake _ => .none
  | .m1ToBytes _ _ _ => .none
  | .m1FromBytes _ _ => .none
  | .umpToWords _ _ => .none
  | .umpFromWords _ => .none
  | .sxFrame _ => .none
  | .sxParse _ _ => .none
  | .sxChunk _ _ => .none
  | .sxUnchunk _ => .none
  | .sxSegLoad _ _ => .segmenter
  | .sxSegNext => .segmenter
  | .sxReasmPush w1 _ => if w1.toNat / 2 ^ 28 = 0x3 then .context (BitVec.ofNat 4 (w1.toNat / 2 ^ 24)) else .none
  | .sxReasmReset none => .contexts
  | .sxReasmReset (some .all) => .contexts
  | .sxReasmReset (some (.group g)) => .context g
  | .hexFormat _ _ => .none
  | .reset => .everything
  | .m1NoteOff _ _ _ _ => .none
  | .m1NoteOn _ _ _ _ => .none
  | .m1PolyPressure _ _ _ _ => .none
  | .m1ControlChange _ _ _ _ => .none
  | .m1ProgramChange _ _ _ => .none
  | .m1ChannelPressure _ _ _ => .none
  | .m1PitchBend _ _ _ _ => .none
  | .m1TuneRequest _ => .none
  | .m1Sysex _ _ => .none
  | .ump1TuneRequest _ _ => .none
  | .ump2NoteOff _ _ _ _ => .none
  | .ump2NoteOn _ _ _ _ => .none
  | .ump2PolyPressure _ _ _ _ => .none
  | .ump2ControlChange _ _ _ _ => .none
  | .ump2ProgramChange _ _ _ _ => .none
  | .ump2ChannelPressure _ _ _ _ => .none
  | .ump2PitchBend _ _ _ _ => .none
  | .ump4PncRegistered _ _ _ _ _ => .none
  | .ump4PncAssignable _ _ _ _ _ => .none
  | .ump4NoteOff _ _ _ _ _ _ => .none
  | .ump4NoteOn _ _ _ _ _ _ => .none
  | .ump4PolyPressure _ _ _ _ _ => .none
  | .ump4ControlChange _ _ _ _ _ => .none
  | .ump4ProgramChange _ _ _ _ _ _ _ _ => .none
  | .ump4ChannelPressure _ _ _ _ => .none
  | .ump4PitchBend _ _ _ _ => .none
  | .ump3Complete g _ _ _ _ _ _ _ => .context g
  | .ump3Start g _ _ _ _ _ _ _ => .context g
  | .ump3Continue g _ _ _ _ _ _ _ => .context g
  | .ump3End g _ _ _ _ _ _ _ => .context g

/-- Whether an instruction has no side effect (R109). -/
def isPure (i : Instr) : Bool := decide (effectOf i = .none)

/-- Whether an instruction may write `RA[g]`. -/
def touchesRa (g : U4) (i : Instr) : Bool :=
  decide (effectOf i = .context g) || decide (effectOf i = .contexts) || decide (effectOf i = .everything)

/-- Whether an instruction may write `SEG`. -/
def touchesSeg (i : Instr) : Bool := decide (effectOf i = .segmenter) || decide (effectOf i = .everything)

/-! ## Statuses -/

/-- The error statuses each instruction may answer with (R601); a wire form has those of the command it stands for. -/
def errorsOf : Instr → List ErrorKind
  | .biFail _ _ => [.rangeError]
  | .biExact _ _ => []
  | .biClamp _ _ => []
  | .biTrunc _ _ => []
  | .biAdd _ _ _ => [.rangeError]
  | .biSub _ _ _ => [.rangeError]
  | .biMul _ _ _ => [.rangeError]
  | .biDiv _ _ _ => [.rangeError]
  | .biRem _ _ _ => [.rangeError]
  | .biCmp _ _ _ => []
  | .vvFromM1 _ _ => []
  | .vvFromM2 _ _ => []
  | .vvViewM1 _ _ => []
  | .vvViewM2 _ _ => []
  | .evMake _ => [.rangeError]
  | .m1ToBytes _ _ _ => [.unsupportedProtocolCombination]
  | .m1FromBytes _ _ => [.malformedWireData]
  | .umpToWords _ _ => [.unsupportedProtocolCombination]
  | .umpFromWords _ => [.malformedWireData]
  | .sxFrame _ => []
  | .sxParse _ _ => [.malformedWireData]
  | .sxChunk _ _ => []
  | .sxUnchunk _ => [.malformedWireData]
  | .sxSegLoad _ _ => [.refusedCapacity]
  | .sxSegNext => []
  | .sxReasmPush _ _ => [.malformedWireData, .refusedCapacity]
  | .sxReasmReset _ => []
  | .hexFormat _ _ => []
  | .reset => []
  | .m1NoteOff _ _ _ _ => [.malformedWireData]
  | .m1NoteOn _ _ _ _ => [.malformedWireData]
  | .m1PolyPressure _ _ _ _ => [.malformedWireData]
  | .m1ControlChange _ _ _ _ => [.malformedWireData]
  | .m1ProgramChange _ _ _ => [.malformedWireData]
  | .m1ChannelPressure _ _ _ => [.malformedWireData]
  | .m1PitchBend _ _ _ _ => [.malformedWireData]
  | .m1TuneRequest _ => [.malformedWireData]
  | .m1Sysex _ _ => [.malformedWireData]
  | .ump1TuneRequest _ _ => [.malformedWireData]
  | .ump2NoteOff _ _ _ _ => [.malformedWireData]
  | .ump2NoteOn _ _ _ _ => [.malformedWireData]
  | .ump2PolyPressure _ _ _ _ => [.malformedWireData]
  | .ump2ControlChange _ _ _ _ => [.malformedWireData]
  | .ump2ProgramChange _ _ _ _ => [.malformedWireData]
  | .ump2ChannelPressure _ _ _ _ => [.malformedWireData]
  | .ump2PitchBend _ _ _ _ => [.malformedWireData]
  | .ump4PncRegistered _ _ _ _ _ => [.malformedWireData]
  | .ump4PncAssignable _ _ _ _ _ => [.malformedWireData]
  | .ump4NoteOff _ _ _ _ _ _ => [.malformedWireData]
  | .ump4NoteOn _ _ _ _ _ _ => [.malformedWireData]
  | .ump4PolyPressure _ _ _ _ _ => [.malformedWireData]
  | .ump4ControlChange _ _ _ _ _ => [.malformedWireData]
  | .ump4ProgramChange _ _ _ _ _ _ _ _ => [.malformedWireData]
  | .ump4ChannelPressure _ _ _ _ => [.malformedWireData]
  | .ump4PitchBend _ _ _ _ => [.malformedWireData]
  | .ump3Complete _ _ _ _ _ _ _ _ => [.malformedWireData, .refusedCapacity]
  | .ump3Start _ _ _ _ _ _ _ _ => [.malformedWireData, .refusedCapacity]
  | .ump3Continue _ _ _ _ _ _ _ _ => [.malformedWireData, .refusedCapacity]
  | .ump3End _ _ _ _ _ _ _ _ => [.malformedWireData, .refusedCapacity]

/-! ## Rescaled values -/

/-- `m` is the integer nearest to `a / b`, and no other integer is as near. -/
def Nearest (m a b : Nat) : Prop := 2 * a < 2 * (m * b) + b ∧ 2 * (m * b) < 2 * a + b

/-- A magnitude is one that VV_FROM_M1 builds, a point of the MIDI 1.0 grid (R315). -/
def onGrid (t : VType) (mag : Nat) : Prop := ∃ v, v ≤ 2 ^ t.m1Width.bits - 1 ∧ mag = magOfM1 t v

/-- Every validated value of an Event is on the MIDI 1.0 grid (R315). -/
def eventOnGrid : Event → Prop
  | .noteOff _ _ _ v _ _ => onGrid .vel v.toNat
  | .noteOn _ _ _ v _ _ => onGrid .vel v.toNat
  | .polyPressure _ _ _ a => onGrid .amt a.toNat
  | .controlChange _ _ _ v => onGrid .ccv v.toNat
  | .programChange _ _ _ _ => True
  | .channelPressure _ _ a => onGrid .amt a.toNat
  | .pitchBend _ _ v => onGrid .pbv v.toNat
  | .pncRegistered _ _ _ _ _ => True
  | .pncAssignable _ _ _ _ _ => True
  | .tuneRequest _ => True
  | .sysex7 _ _ _ => True
  | .universalSysex7 _ _ _ _ _ _ => True

/-- An Event no MIDI 1.0 form can carry: a per-note controller, a note attribute or a bank (R160, R604). -/
def only2 (e : Event) : Prop := e.kind = .pncRegistered ∨ e.kind = .pncAssignable ∨ has2Only e = true

/-! ## The invariant of a run -/

/-- Whether `n` data bytes are within a bound, if there is one (R13). -/
def withinBound (bound : Option Nat) (n : Nat) : Prop := ∀ m, bound = some m → n ≤ m

/-- A result has the type the command's rule names (R55, R57, R72), and a reassembled message is no longer than
`P_SX_MAX` (R708). -/
def Result.wf (bound : Option Nat) : Result → Prop
  | .none => True
  | .bounded w v => v ≤ 2 ^ w.bits - 1
  | .exact w v => ∀ x, v = some x → x ≤ 2 ^ w.bits - 1
  | .cmp _ => True
  | .validated t mag => mag ≤ 2 ^ t.m2Width.bits - 1
  | .event e => e.wf = true
  | .bytes _ => True
  | .words _ => True
  | .data _ => True
  | .packets _ => True
  | .segOut _ => True
  | .reasmOut .none => True
  | .reasmOut (.message _ d) => withinBound bound d.length

/-- What holds after every command (R82, R83, R523, R13, R72). -/
structure State.Inv (s : State) : Prop where
  segLen : s.seg.len = s.seg.data.length
  segPos : s.seg.active = true → s.seg.pos < s.seg.len ∧ s.seg.pos % 6 = 0
  segIdle : s.seg.active = false → s.seg = SegContext.idle
  segCapacity : withinBound s.pSxMax s.seg.len
  raIdle : ∀ g, (s.raOf g).active = false → (s.raOf g).buf = []
  raCapacity : ∀ g, withinBound s.pSxMax (s.raOf g).buf.length
  capacity : ∀ m, s.pSxMax = some m → 6 ≤ m
  result : ∀ v, s.response = some (.ok v) → v.wf s.pSxMax
  refusal : s.response = some (.error .refusedCapacity) → s.pSxMax ≠ none

end Sys2Proof.Machine

namespace Sys2Proof

/-! ## The raw fields of EV_MAKE (R231) -/

/-- A raw integer is inside `[lo, hi]`. -/
def between (lo hi v : Int) : Prop := lo ≤ v ∧ v ≤ hi

/-- The range of a raw note or controller number; a typed one is inside it already (R232). -/
def RawNumber.InRange : RawNumber → Prop
  | .raw v => between 0 127 v
  | .typed _ => True

/-- The range of a raw validated value: `m1:v` by N bits, `m2:x` by M bits. -/
def RawValue.InRange (t : VType) : RawValue → Prop
  | .m1 v => between 0 (2 ^ t.m1Width.bits - 1) v
  | .m2 x => between 0 (2 ^ t.m2Width.bits - 1) x

/-- The range of a bank. -/
def RawBank.InRange : RawBank → Prop
  | .noBank => True
  | .bank msb lsb => between 0 127 msb ∧ between 0 127 lsb

/-- The range of a manufacturer ID. -/
def RawManufacturer.InRange : RawManufacturer → Prop
  | .one id => between 0x01 0x7D id
  | .three b1 b2 => between 0 127 b1 ∧ between 0 127 b2

/-- Every raw field is inside its range of R231. -/
def RawEvent.InRange : RawEvent → Prop
  | .noteOff g c n v aty ad =>
    between 0 15 g ∧ between 0 15 c ∧ n.InRange ∧ v.InRange .vel ∧ between 0 255 (aty.getD 0) ∧ between 0 65535 (ad.getD 0)
  | .noteOn g c n v aty ad =>
    between 0 15 g ∧ between 0 15 c ∧ n.InRange ∧ v.InRange .vel ∧ between 0 255 (aty.getD 0) ∧ between 0 65535 (ad.getD 0)
  | .polyPressure g c n a => between 0 15 g ∧ between 0 15 c ∧ n.InRange ∧ a.InRange .amt
  | .controlChange g c n v => between 0 15 g ∧ between 0 15 c ∧ n.InRange ∧ v.InRange .ccv
  | .programChange g c p b => between 0 15 g ∧ between 0 15 c ∧ between 0 127 p ∧ (b.getD .noBank).InRange
  | .channelPressure g c a => between 0 15 g ∧ between 0 15 c ∧ a.InRange .amt
  | .pitchBend g c v => between 0 15 g ∧ between 0 15 c ∧ v.InRange .pbv
  | .pncRegistered g c n i v =>
    between 0 15 g ∧ between 0 15 c ∧ n.InRange ∧ between 0 255 i ∧ between 0 4294967295 v
  | .pncAssignable g c n i v =>
    between 0 15 g ∧ between 0 15 c ∧ n.InRange ∧ between 0 255 i ∧ between 0 4294967295 v
  | .tuneRequest g => between 0 15 g
  | .sysex7 g m d => between 0 15 g ∧ m.InRange ∧ ∀ x ∈ d, between 0 127 x
  | .universalSysex7 g _ dev s1 s2 d =>
    between 0 15 g ∧ between 0 127 dev ∧ between 0 127 s1 ∧ between 0 127 s2 ∧ ∀ x ∈ d, between 0 127 x

/-- A field of an Event holds a raw integer. -/
def Holds {n : Nat} (field : BitVec n) (v : Int) : Prop := (field.toNat : Int) = v

/-- A note or controller number is the one the raw field gives. -/
def RawNumber.Gives (n : U7) : RawNumber → Prop
  | .raw v => Holds n v
  | .typed m => n = m

/-- A magnitude is the one the raw field gives: `m1:v` is VV_FROM_M1 of `v`, `m2:x` is `x` itself (R230). -/
def RawValue.Gives (t : VType) (mag : Nat) : RawValue → Prop
  | .m1 v => mag = Machine.magOfM1 t v.toNat
  | .m2 x => (mag : Int) = x

/-- A bank is the one the raw field gives. -/
def RawBank.Gives : Bank → RawBank → Prop
  | b, .noBank => b = .noBank
  | b, .bank msb lsb => ∃ m l, b = .bank m l ∧ Holds m msb ∧ Holds l lsb

/-- A manufacturer ID is the one the raw field gives. -/
def RawManufacturer.Gives : ManufacturerId → RawManufacturer → Prop
  | m, .one id => ∃ x, m = .one x ∧ Holds x id
  | m, .three b1 b2 => ∃ x y, m = .three x y ∧ Holds x b1 ∧ Holds y b2

/-- An Event has the kind of a raw event and every field as its raw field gives it (R230, R231). -/
def RawEvent.Gives : RawEvent → Event → Prop
  | .noteOff g c n v aty ad, e => ∃ g' c' n' v' aty' ad', e = .noteOff g' c' n' v' aty' ad' ∧ Holds g' g ∧ Holds c' c ∧
      n.Gives n' ∧ v.Gives .vel v'.toNat ∧ Holds aty' (aty.getD 0) ∧ Holds ad' (ad.getD 0)
  | .noteOn g c n v aty ad, e => ∃ g' c' n' v' aty' ad', e = .noteOn g' c' n' v' aty' ad' ∧ Holds g' g ∧ Holds c' c ∧
      n.Gives n' ∧ v.Gives .vel v'.toNat ∧ Holds aty' (aty.getD 0) ∧ Holds ad' (ad.getD 0)
  | .polyPressure g c n a, e => ∃ g' c' n' a', e = .polyPressure g' c' n' a' ∧ Holds g' g ∧ Holds c' c ∧ n.Gives n' ∧
      a.Gives .amt a'.toNat
  | .controlChange g c n v, e => ∃ g' c' n' v', e = .controlChange g' c' n' v' ∧ Holds g' g ∧ Holds c' c ∧ n.Gives n' ∧
      v.Gives .ccv v'.toNat
  | .programChange g c p b, e => ∃ g' c' p' b', e = .programChange g' c' p' b' ∧ Holds g' g ∧ Holds c' c ∧ Holds p' p ∧
      RawBank.Gives b' (b.getD .noBank)
  | .channelPressure g c a, e => ∃ g' c' a', e = .channelPressure g' c' a' ∧ Holds g' g ∧ Holds c' c ∧ a.Gives .amt a'.toNat
  | .pitchBend g c v, e => ∃ g' c' v', e = .pitchBend g' c' v' ∧ Holds g' g ∧ Holds c' c ∧ v.Gives .pbv v'.toNat
  | .pncRegistered g c n i v, e => ∃ g' c' n' i' v', e = .pncRegistered g' c' n' i' v' ∧ Holds g' g ∧ Holds c' c ∧
      n.Gives n' ∧ Holds i' i ∧ Holds v' v
  | .pncAssignable g c n i v, e => ∃ g' c' n' i' v', e = .pncAssignable g' c' n' i' v' ∧ Holds g' g ∧ Holds c' c ∧
      n.Gives n' ∧ Holds i' i ∧ Holds v' v
  | .tuneRequest g, e => ∃ g', e = .tuneRequest g' ∧ Holds g' g
  | .sysex7 g m d, e => ∃ g' m' d', e = .sysex7 g' m' d' ∧ Holds g' g ∧ RawManufacturer.Gives m' m ∧
      d'.map (fun x => (x.toNat : Int)) = d
  | .universalSysex7 g k dev s1 s2 d, e => ∃ g' dev' s1' s2' d', e = .universalSysex7 g' k dev' s1' s2' d' ∧ Holds g' g ∧
      Holds dev' dev ∧ Holds s1' s1 ∧ Holds s2' s2 ∧ d'.map (fun x => (x.toNat : Int)) = d

end Sys2Proof

namespace Sys2Proof.Machine

/-! ## Wire layouts in plain arithmetic (R20, R21, R103, R141, R150) -/

/-- A channel status byte, `(S << 4) | channel` (R141). -/
def statusByte (status : Nat) (channel : U4) : Byte := BitVec.ofNat 8 (status * 2 ^ 4 + channel.toNat)

/-- A 7-bit value as a byte, bit 7 = 0. -/
def dataByte (v : Nat) : Byte := BitVec.ofNat 8 v

/-- The word with message type in bits 31:28, group in 27:24, status in 23:20, channel in 19:16 and two bytes below. -/
def headWord (mt : Nat) (group : U4) (status : Nat) (channel : U4) (f1 f2 : Nat) : Word :=
  BitVec.ofNat 32 (mt * 2 ^ 28 + group.toNat * 2 ^ 24 + status * 2 ^ 20 + channel.toNat * 2 ^ 16 + f1 * 2 ^ 8 + f2)

/-- The word with `hi` in bits 31:16 and `lo` in bits 15:0. -/
def pairWord (hi lo : Nat) : Word := BitVec.ofNat 32 (hi * 2 ^ 16 + lo)

/-- The word with four bytes, the first in bits 31:24 (R103). -/
def bytesWord (b0 b1 b2 b3 : Nat) : Word := BitVec.ofNat 32 (b0 * 2 ^ 24 + b1 * 2 ^ 16 + b2 * 2 ^ 8 + b3)

end Sys2Proof.Machine

namespace Sys2Proof

/-! ## The fields of a packet in numbers (R153, 43_sysex7_chunker.md notation) -/

/-- `w1[31:28]`. -/
def Packet.mt (p : Packet) : Nat := p.w1.toNat / 2 ^ 28

/-- `w1[27:24]`. -/
def Packet.grp (p : Packet) : Nat := p.w1.toNat / 2 ^ 24 % 16

/-- `w1[23:20]`. -/
def Packet.st (p : Packet) : Nat := p.w1.toNat / 2 ^ 20 % 16

/-- `w1[19:16]`. -/
def Packet.cnt (p : Packet) : Nat := p.w1.toNat / 2 ^ 16 % 16

/-- Slot `k` of the six byte slots: `w1[15:8], w1[7:0], w2[31:24], w2[23:16], w2[15:8], w2[7:0]`. -/
def Packet.slot (p : Packet) (k : Nat) : Nat :=
  if k < 2 then p.w1.toNat / 2 ^ (8 * (1 - k)) % 256 else p.w2.toNat / 2 ^ (8 * (5 - k)) % 256

/-- A valid packet (R515). -/
def Packet.Valid (p : Packet) : Prop := p.mt = 0x3 ∧ p.st ≤ 0x3 ∧ p.cnt ≤ 6 ∧ ∀ k, k < p.cnt → p.slot k < 0x80

/-- The data bytes of a packet, the slots its byte count delimits (R515). -/
def Packet.bytes (p : Packet) : List U7 := (List.range p.cnt).map fun k => BitVec.ofNat 7 (p.slot k)

end Sys2Proof
end

