-- ==== Sys2Proof/Certificates/Slice0/Obligations.lean ====
section
/-! DEFINITION. The statements for the provers: what the numbered rules of spec/ say an instruction or the machine does. -/

open Sys2Proof Sys2Proof.Machine

/-! ## Steps, decoding, reset -/

/-- A step takes the oldest input off the port and is the execution of the instruction it decodes to. -/
def Obligations.StepRunsTheDecodedInstruction : Prop :=
  ∀ (s : State) (input : Input) (rest : List Input) (i : Instr), s.port = input :: rest → decodeInput input = .ok i →
    step s = exec i { s with port := rest }

/-- With nothing presented a step changes nothing (assumption 2); what the command boundary refuses ends the run by name
(R606; assumption 9). -/
def Obligations.StepIsIdleOrRefusesByName : Prop :=
  ∀ s : State, (s.port = [] → step s = .next s) ∧
    ∀ (input : Input) (rest : List Input) (r : Rejection), s.port = input :: rest → decodeInput input = .error r →
      step s = .refused (.boundary r)

/-- R132: exactly the opcodes outside the command map are refused, whatever the operands. -/
def Obligations.UnknownOpcodesAreRefused : Prop :=
  ∀ (op : Byte) (os : List Operand),
    (op.toNat = 0x00 ∨ (0x0B ≤ op.toNat ∧ op.toNat ≤ 0x0F) ∨ (0x14 ≤ op.toNat ∧ op.toNat ≤ 0x17) ∨
      (0x19 ≤ op.toNat ∧ op.toNat ≤ 0x1F) ∨ (0x22 ≤ op.toNat ∧ op.toNat ≤ 0x2F) ∨ (0x32 ≤ op.toNat ∧ op.toNat ≤ 0x3F) ∨
      (0x48 ≤ op.toNat ∧ op.toNat ≤ 0x4F) ∨ (0x51 ≤ op.toNat ∧ op.toNat ≤ 0x7E) ∨ 0x80 ≤ op.toNat) ↔
    decodeInput (.command op os) = .error (.unknownOpcode op)

/-- R73: what the command boundary lets through has an operand of its type in every place; for a
received message, of the wire form the model gives it (assumptions 5 to 7). -/
def Obligations.DecodedInstructionsAreWellTyped : Prop :=
  ∀ (input : Input) (i : Instr), decodeInput input = .ok i → i.wf = true

/-- R210: an operand outside the width the request names is refused at the command boundary, and by the meaning itself. -/
def Obligations.MixedWidthsAreRefused : Prop :=
  ∀ (w : Width),
    (∀ (op : Op) (a b : Int), op ∈ [Op.biAdd, .biSub, .biMul, .biDiv, .biRem, .biCmp] →
      ¬ (between 0 (2 ^ w.bits - 1) a ∧ between 0 (2 ^ w.bits - 1) b) →
      decodeInput (.command op.code [.int w.bits, .int a, .int b]) = .error (.illTyped op.code)) ∧
    ∀ (a b : Nat) (s : State), ¬ (a ≤ 2 ^ w.bits - 1 ∧ b ≤ 2 ^ w.bits - 1) →
      exec (.biAdd w a b) s = .refused (.boundary (.illTyped 0x05)) ∧
      exec (.biSub w a b) s = .refused (.boundary (.illTyped 0x06)) ∧
      exec (.biMul w a b) s = .refused (.boundary (.illTyped 0x07)) ∧
      exec (.biDiv w a b) s = .refused (.boundary (.illTyped 0x08)) ∧
      exec (.biRem w a b) s = .refused (.boundary (.illTyped 0x09)) ∧
      exec (.biCmp w a b) s = .refused (.boundary (.illTyped 0x0A))

/-- R6, R10, R73: a width that is none, a data element that is no U7 and a group that is no U4 are refused. -/
def Obligations.IllTypedOperandsAreRefused : Prop :=
  (∀ (op : Op) (n : Int) (os : List Operand),
    op ∈ [Op.biFail, .biExact, .biClamp, .biTrunc, .biAdd, .biSub, .biMul, .biDiv, .biRem, .biCmp] →
    n ∉ [(4 : Int), 7, 8, 14, 16, 32] → decodeInput (.command op.code (.int n :: os)) = .error (.illTyped op.code)) ∧
  ∀ (op : Op) (d : List Int) (g : Int), op ∈ [Op.sxChunk, .sxSegLoad] →
    ((∃ x ∈ d, ¬ between 0 127 x) ∨ ¬ between 0 15 g) →
    decodeInput (.command op.code [.ints d, .int g]) = .error (.illTyped op.code)

/-- Decoding the encoding of a well-formed instruction gives it back, with every operand. -/
def Obligations.DecodeUndoesEncode : Prop :=
  ∀ i : Instr, i.wf = true → decodeInput (encode i) = .ok i

/-- No bit of a received message is dropped: its wire form encodes to the message it was decoded from. Messages of no wire
form are handed whole to the command that judges them (assumptions 5 to 7). -/
def Obligations.ReceivedMessagesKeepEveryBit : Prop :=
  (∀ (ws : List Word) (i : Instr), decodeInput (.ump ws) = .ok i →
    encode i = .ump ws ∨ i = .umpFromWords ws ∨ ∃ w1 w2, ws = [w1, w2] ∧ i = .sxReasmPush w1 w2) ∧
  ∀ (m : List Byte) (g : Option U4) (i : Instr), decodeInput (.midi1 m g) = .ok i →
    encode i = .midi1 m g ∨ i = .m1FromBytes m g

/-- Words of the spec's encodings decode to the instructions they stand for: three requests (R134 with R200, R511 and R701)
and six received messages (R307, R405, R413, R421, R424, R531), which are instructions of their own by the model's choice
(assumptions 5 and 6). -/
def Obligations.SpecWordsDecode : Prop :=
  decodeInput (.command 0x01 [.int 7, .int 128]) = .ok (.biFail .w7 128) ∧
  decodeInput (.command 0x45 []) = .ok .sxSegNext ∧
  decodeInput (.command 0x7F []) = .ok .reset ∧
  decodeInput (.midi1 [0xA0, 0x3B, 0x40] none) = .ok (.m1PolyPressure none 0x0 0x3B 0x40) ∧
  decodeInput (.ump [0x15F60000]) = .ok (.ump1TuneRequest 0x5 0x0000) ∧
  decodeInput (.ump [0x20BF077F]) = .ok (.ump2ControlChange 0x0 0xF 0x07 0x7F) ∧
  decodeInput (.ump [0x40903C00, 0xC9920000]) = .ok (.ump4NoteOn 0x0 0x0 0x3C 0x00 0xC992 0x0000) ∧
  decodeInput (.ump [0x40C20001, 0x05000102]) = .ok (.ump4ProgramChange 0x0 0x2 0x00 0x01 0x05 0x00 0x01 0x02) ∧
  decodeInput (.ump [0x30160102, 0x03040506]) = .ok (.ump3Start 0x0 0x6 0x01 0x02 0x03 0x04 0x05 0x06)

/-- An instruction whose operands have their types completes with exactly one response and takes nothing further off the port
(R133, for the commands; the wire forms are instructions by assumptions 5 and 6); one whose operands do not is refused by
name (R73 and R606, as assumption 9 reads them). -/
def Obligations.WellTypedInstructionsAnswerOnce : Prop :=
  ∀ (i : Instr) (s : State),
    (i.wf = true → ∃ t r, exec i s = .next t ∧ t.response = some r ∧ t.port = s.port ∧ t.pSxMax = s.pSxMax) ∧
    (i.wf = false → ∃ op, exec i s = .refused (.boundary (.illTyped op)))

/-- R700, R701: the reset state, and RESET, which brings every context back to it. -/
def Obligations.ResetGivesTheResetState : Prop :=
  State.reset.seg = { active := false, data := [], len := 0, pos := 0, group := 0 } ∧
  (∀ g, State.reset.raOf g = { active := false, buf := [] }) ∧
  ∀ s : State, ∃ t, exec .reset s = .next t ∧ t.response = some (.ok .none) ∧
    t.seg = { active := false, data := [], len := 0, pos := 0, group := 0 } ∧
    (∀ g, t.raOf g = { active := false, buf := [] }) ∧ t.port = s.port ∧ t.pSxMax = s.pSxMax

/-- The invariant holds right after reset. -/
def Obligations.InvariantHoldsAtReset : Prop := State.reset.Inv

/-- The invariants of SEG (R82, with R510 and R511) and of each RA[g] (R83), with the types of results (R55, R57, R72) and the
capacity (R523, R13, R605), are kept by every step from every state that has them. The standing response is the model's
choice (assumption 3), and so are P_SX_MAX as a field of State (assumption 8), the idle step (assumption 2) and the steps of
received messages (assumptions 5 and 6). -/
def Obligations.EveryStepKeepsTheInvariant : Prop :=
  ∀ s t : State, s.Inv → step s = .next t → t.Inv

/-! ## Bounded integers -/

/-- R200 to R203: the failing, exact, clamping and truncating constructors, for every width and every integer. -/
def Obligations.BoundedConstructors : Prop :=
  ∀ (w : Width) (v : Int) (s : State),
    (between 0 (2 ^ w.bits - 1) v →
      Answers (.biFail w v) s (.ok (.bounded w v.toNat)) ∧ Answers (.biExact w v) s (.ok (.exact w (some v.toNat))) ∧
      Answers (.biClamp w v) s (.ok (.bounded w v.toNat)) ∧ Answers (.biTrunc w v) s (.ok (.bounded w v.toNat))) ∧
    (¬ between 0 (2 ^ w.bits - 1) v →
      Answers (.biFail w v) s (.error .rangeError) ∧ Answers (.biExact w v) s (.ok (.exact w none))) ∧
    (v < 0 → Answers (.biClamp w v) s (.ok (.bounded w 0))) ∧
    (2 ^ w.bits - 1 < v → Answers (.biClamp w v) s (.ok (.bounded w (2 ^ w.bits - 1)))) ∧
    ∃ r : Nat, r < 2 ^ w.bits ∧ (2 ^ w.bits : Int) ∣ v - r ∧ Answers (.biTrunc w v) s (.ok (.bounded w r))

/-- R205 to R209, R211: arithmetic is exact, unsigned, and fails where the exact result does not exist in the width. -/
def Obligations.BoundedArithmeticIsExact : Prop :=
  ∀ (w : Width) (a b : Nat) (s : State), a ≤ 2 ^ w.bits - 1 → b ≤ 2 ^ w.bits - 1 →
    (a + b ≤ 2 ^ w.bits - 1 → Answers (.biAdd w a b) s (.ok (.bounded w (a + b)))) ∧
    (2 ^ w.bits - 1 < a + b → Answers (.biAdd w a b) s (.error .rangeError)) ∧
    (b ≤ a → Answers (.biSub w a b) s (.ok (.bounded w (a - b)))) ∧
    (a < b → Answers (.biSub w a b) s (.error .rangeError)) ∧
    (a * b ≤ 2 ^ w.bits - 1 → Answers (.biMul w a b) s (.ok (.bounded w (a * b)))) ∧
    (2 ^ w.bits - 1 < a * b → Answers (.biMul w a b) s (.error .rangeError)) ∧
    (b ≠ 0 → ∃ q r, a = b * q + r ∧ r < b ∧ Answers (.biDiv w a b) s (.ok (.bounded w q)) ∧
      Answers (.biRem w a b) s (.ok (.bounded w r))) ∧
    (b = 0 → Answers (.biDiv w a b) s (.error .rangeError) ∧ Answers (.biRem w a b) s (.error .rangeError))

/-- R204: comparison by magnitude. -/
def Obligations.BoundedCompare : Prop :=
  ∀ (w : Width) (a b : Nat) (s : State), a ≤ 2 ^ w.bits - 1 → b ≤ 2 ^ w.bits - 1 →
    (a < b → Answers (.biCmp w a b) s (.ok (.cmp .lt))) ∧ (a = b → Answers (.biCmp w a b) s (.ok (.cmp .eq))) ∧
    (b < a → Answers (.biCmp w a b) s (.ok (.cmp .gt)))

/-! ## Validated values and events -/

/-- R219 to R222, with the rescale of R216 to R218 said as the nearest integer, which by R224 is never a matter of a tie:
a linear widening, for pitch bend a shift up to the center and a linear widening above it, and a linear narrowing. -/
def Obligations.ValidatedValuesRescaleToNearest : Prop :=
  ∀ (t : VType) (s : State),
    (∀ v, v ≤ 2 ^ t.m1Width.bits - 1 → t.centered = false →
      ∃ m, Nearest m (v * (2 ^ t.m2Width.bits - 1)) (2 ^ t.m1Width.bits - 1) ∧
        Answers (.vvFromM1 t v) s (.ok (.validated t m))) ∧
    (∀ v, v ≤ 2 ^ t.m1Width.bits - 1 → t.centered = true →
      (v ≤ 2 ^ (t.m1Width.bits - 1) →
        Answers (.vvFromM1 t v) s (.ok (.validated t (v * 2 ^ (t.m2Width.bits - t.m1Width.bits))))) ∧
      (2 ^ (t.m1Width.bits - 1) < v →
        ∃ m, Nearest m ((v - 2 ^ (t.m1Width.bits - 1)) * (2 ^ (t.m2Width.bits - 1) - 1)) (2 ^ (t.m1Width.bits - 1) - 1) ∧
          Answers (.vvFromM1 t v) s (.ok (.validated t (2 ^ (t.m2Width.bits - 1) + m))))) ∧
    ∀ x, x ≤ 2 ^ t.m2Width.bits - 1 →
      Answers (.vvFromM2 t x) s (.ok (.validated t x)) ∧ Answers (.vvViewM2 t x) s (.ok (.bounded t.m2Width x)) ∧
      ∃ v, Nearest v (x * (2 ^ t.m1Width.bits - 1)) (2 ^ t.m2Width.bits - 1) ∧
        Answers (.vvViewM1 t x) s (.ok (.bounded t.m1Width v))

/-- R223: the MIDI 1.0 value round-trips, widening is strictly increasing and narrowing non-decreasing, the ends map to the
ends, and the pitch bend center maps to the center both ways. -/
def Obligations.RescaleLaws : Prop :=
  ∀ (t : VType) (s : State),
    (∀ v, v ≤ 2 ^ t.m1Width.bits - 1 → ∃ m, m ≤ 2 ^ t.m2Width.bits - 1 ∧
      Answers (.vvFromM1 t v) s (.ok (.validated t m)) ∧ Answers (.vvViewM1 t m) s (.ok (.bounded t.m1Width v))) ∧
    (∀ v v' m m', v < v' → v' ≤ 2 ^ t.m1Width.bits - 1 → Answers (.vvFromM1 t v) s (.ok (.validated t m)) →
      Answers (.vvFromM1 t v') s (.ok (.validated t m')) → m < m') ∧
    (∀ x x' v v', x ≤ x' → x' ≤ 2 ^ t.m2Width.bits - 1 → Answers (.vvViewM1 t x) s (.ok (.bounded t.m1Width v)) →
      Answers (.vvViewM1 t x') s (.ok (.bounded t.m1Width v')) → v ≤ v') ∧
    Answers (.vvFromM1 t 0) s (.ok (.validated t 0)) ∧
    Answers (.vvFromM1 t (2 ^ t.m1Width.bits - 1)) s (.ok (.validated t (2 ^ t.m2Width.bits - 1))) ∧
    Answers (.vvViewM1 .pbv 0x80000000) s (.ok (.bounded .w14 8192)) ∧
    Answers (.vvFromM1 .pbv 8192) s (.ok (.validated .pbv 0x80000000))

/-- R230, R231: EV_MAKE builds the Event its raw fields give when every one is inside its range, and answers RANGE_ERROR,
with no Event, when one is not. -/
def Obligations.EventConstruction : Prop :=
  ∀ (raw : RawEvent) (s : State),
    (raw.InRange → ∃ e, raw.Gives e ∧ e.wf = true ∧ Answers (.evMake raw) s (.ok (.event e))) ∧
    (¬ raw.InRange → Answers (.evMake raw) s (.error .rangeError))

/-- R232: an already-built note or controller number stands for the raw integer of its value. -/
def Obligations.TypedNumbersBuildTheSameEvent : Prop :=
  ∀ (g c : Int) (n : U7) (v : RawValue) (aty ad : Option Int) (i x : Int) (s : State),
    exec (.evMake (.noteOff g c (.typed n) v aty ad)) s = exec (.evMake (.noteOff g c (.raw n.toNat) v aty ad)) s ∧
    exec (.evMake (.noteOn g c (.typed n) v aty ad)) s = exec (.evMake (.noteOn g c (.raw n.toNat) v aty ad)) s ∧
    exec (.evMake (.polyPressure g c (.typed n) v)) s = exec (.evMake (.polyPressure g c (.raw n.toNat) v)) s ∧
    exec (.evMake (.controlChange g c (.typed n) v)) s = exec (.evMake (.controlChange g c (.raw n.toNat) v)) s ∧
    exec (.evMake (.pncRegistered g c (.typed n) i x)) s = exec (.evMake (.pncRegistered g c (.raw n.toNat) i x)) s ∧
    exec (.evMake (.pncAssignable g c (.typed n) i x)) s = exec (.evMake (.pncAssignable g c (.raw n.toNat) i x)) s

/-! ## MIDI 1.0 bytes -/

/-- R305, R306: the note messages in both directions. -/
def Obligations.NoteMessagesInBytes : Prop :=
  ∀ (g c : U4) (s : State),
    (∀ (n : U7) (vel : U16) (a b : Option Bool),
      Answers (.m1ToBytes (.noteOff g c n vel 0 0) a b) s
        (.ok (.bytes [statusByte 0x8 c, dataByte n.toNat, dataByte (narrow vel.toNat 16 7)])) ∧
      Answers (.m1ToBytes (.noteOn g c n vel 0 0) a b) s
        (.ok (.bytes [statusByte 0x9 c, dataByte n.toNat, dataByte (narrow vel.toNat 16 7)])) ∧
      ∀ (aty : Byte) (ad : U16), (aty ≠ 0 ∨ ad ≠ 0) →
        Answers (.m1ToBytes (.noteOff g c n vel aty ad) a b) s (.error .unsupportedProtocolCombination) ∧
        Answers (.m1ToBytes (.noteOn g c n vel aty ad) a b) s (.error .unsupportedProtocolCombination)) ∧
    ∀ (grp : Option U4) (d1 d2 : Byte),
      (d1.toNat < 0x80 ∧ d2.toNat < 0x80 →
        Answers (.m1FromBytes [statusByte 0x8 c, d1, d2] grp) s (.ok (.event (.noteOff (grp.getD 0) c
          (BitVec.ofNat 7 d1.toNat) (BitVec.ofNat 16 (widen d2.toNat 7 16)) 0 0))) ∧
        Answers (.m1FromBytes [statusByte 0x9 c, d1, d2] grp) s (.ok (.event (.noteOn (grp.getD 0) c
          (BitVec.ofNat 7 d1.toNat) (BitVec.ofNat 16 (widen d2.toNat 7 16)) 0 0)))) ∧
      (0x80 ≤ d1.toNat ∨ 0x80 ≤ d2.toNat →
        Answers (.m1FromBytes [statusByte 0x8 c, d1, d2] grp) s (.error .malformedWireData) ∧
        Answers (.m1FromBytes [statusByte 0x9 c, d1, d2] grp) s (.error .malformedWireData))

/-- R307 to R312: the other channel messages and the tune request in both directions. -/
def Obligations.ChannelMessagesInBytes : Prop :=
  ∀ (g c : U4) (s : State),
    (∀ (n : U7) (x : U32) (a b : Option Bool),
      Answers (.m1ToBytes (.polyPressure g c n x) a b) s
        (.ok (.bytes [statusByte 0xA c, dataByte n.toNat, dataByte (narrow x.toNat 32 7)])) ∧
      Answers (.m1ToBytes (.controlChange g c n x) a b) s
        (.ok (.bytes [statusByte 0xB c, dataByte n.toNat, dataByte (narrow x.toNat 32 7)])) ∧
      Answers (.m1ToBytes (.programChange g c n .noBank) a b) s (.ok (.bytes [statusByte 0xC c, dataByte n.toNat])) ∧
      (∀ m l, Answers (.m1ToBytes (.programChange g c n (.bank m l)) a b) s (.error .unsupportedProtocolCombination)) ∧
      Answers (.m1ToBytes (.channelPressure g c x) a b) s
        (.ok (.bytes [statusByte 0xD c, dataByte (narrow x.toNat 32 7)])) ∧
      Answers (.m1ToBytes (.pitchBend g c x) a b) s
        (.ok (.bytes [statusByte 0xE c, dataByte (narrow x.toNat 32 14 % 2 ^ 7), dataByte (narrow x.toNat 32 14 / 2 ^ 7)])) ∧
      Answers (.m1ToBytes (.tuneRequest g) a b) s (.ok (.bytes [0xF6]))) ∧
    ∀ (grp : Option U4) (d1 d2 : Byte),
      (d1.toNat < 0x80 ∧ d2.toNat < 0x80 →
        Answers (.m1FromBytes [statusByte 0xA c, d1, d2] grp) s (.ok (.event (.polyPressure (grp.getD 0) c
          (BitVec.ofNat 7 d1.toNat) (BitVec.ofNat 32 (widen d2.toNat 7 32))))) ∧
        Answers (.m1FromBytes [statusByte 0xB c, d1, d2] grp) s (.ok (.event (.controlChange (grp.getD 0) c
          (BitVec.ofNat 7 d1.toNat) (BitVec.ofNat 32 (widen d2.toNat 7 32))))) ∧
        Answers (.m1FromBytes [statusByte 0xE c, d1, d2] grp) s (.ok (.event (.pitchBend (grp.getD 0) c
          (BitVec.ofNat 32 (widenC (d2.toNat * 2 ^ 7 + d1.toNat) 14 32)))))) ∧
      (0x80 ≤ d1.toNat ∨ 0x80 ≤ d2.toNat →
        Answers (.m1FromBytes [statusByte 0xA c, d1, d2] grp) s (.error .malformedWireData) ∧
        Answers (.m1FromBytes [statusByte 0xB c, d1, d2] grp) s (.error .malformedWireData) ∧
        Answers (.m1FromBytes [statusByte 0xE c, d1, d2] grp) s (.error .malformedWireData)) ∧
      (d1.toNat < 0x80 →
        Answers (.m1FromBytes [statusByte 0xC c, d1] grp) s (.ok (.event (.programChange (grp.getD 0) c
          (BitVec.ofNat 7 d1.toNat) .noBank))) ∧
        Answers (.m1FromBytes [statusByte 0xD c, d1] grp) s (.ok (.event (.channelPressure (grp.getD 0) c
          (BitVec.ofNat 32 (widen d1.toNat 7 32)))))) ∧
      (0x80 ≤ d1.toNat →
        Answers (.m1FromBytes [statusByte 0xC c, d1] grp) s (.error .malformedWireData) ∧
        Answers (.m1FromBytes [statusByte 0xD c, d1] grp) s (.error .malformedWireData)) ∧
      Answers (.m1FromBytes [statusByte 0xD c, d1, d2] grp) s (.error .malformedWireData) ∧
      Answers (.m1FromBytes [0xF6] grp) s (.ok (.event (.tuneRequest (grp.getD 0)))) ∧
      ∀ (b : Byte) (rest : List Byte), Answers (.m1FromBytes (0xF6 :: b :: rest) grp) s (.error .malformedWireData)

/-- R313: SysEx is framed by 0xF0 and 0xF7, each left out when its flag is 0; decoding needs both, and parses what stands
between them. -/
def Obligations.SysExInBytes : Prop :=
  (∀ (e : Event) (a b : Option Bool) (s : State), e.wf = true → e.isSysEx = true →
    ∃ d, Answers (.sxFrame e) s (.ok (.data d)) ∧
      Answers (.m1ToBytes e a b) s (.ok (.bytes ((if a = some false then [] else [0xF0]) ++
        d.map (fun x => dataByte x.toNat) ++ (if b = some false then [] else [0xF7]))))) ∧
  ∀ (grp : Option U4) (s : State),
    (∀ d : List Byte, (∀ x ∈ d, x.toNat < 0x80) →
      ∃ r, Answers (.sxParse d (grp.getD 0)) s r ∧ Answers (.m1FromBytes (0xF0 :: d ++ [0xF7]) grp) s r) ∧
    ∀ rest : List Byte, (¬ ∃ d, rest = d ++ [0xF7] ∧ ∀ x ∈ d, x.toNat < 0x80) →
      Answers (.m1FromBytes (0xF0 :: rest) grp) s (.error .malformedWireData)

/-- A received MIDI 1.0 message of 7-bit data bytes is the Event of its form (R305 to R313, SysEx with a one-byte manufacturer
ID); as an instruction it stands for M1_FROMBYTES of its bytes (assumption 5). -/
def Obligations.ByteWireFormsGiveTheirEvent : Prop :=
  ∀ (grp : Option U4) (c : U4) (d1 d2 : Byte) (s : State), d1.toNat < 0x80 → d2.toNat < 0x80 →
    Answers (.m1NoteOff grp c d1 d2) s (.ok (.event (.noteOff (grp.getD 0) c
      (BitVec.ofNat 7 d1.toNat) (BitVec.ofNat 16 (widen d2.toNat 7 16)) 0 0))) ∧
    Answers (.m1NoteOn grp c d1 d2) s (.ok (.event (.noteOn (grp.getD 0) c
      (BitVec.ofNat 7 d1.toNat) (BitVec.ofNat 16 (widen d2.toNat 7 16)) 0 0))) ∧
    Answers (.m1PolyPressure grp c d1 d2) s (.ok (.event (.polyPressure (grp.getD 0) c
      (BitVec.ofNat 7 d1.toNat) (BitVec.ofNat 32 (widen d2.toNat 7 32))))) ∧
    Answers (.m1ControlChange grp c d1 d2) s (.ok (.event (.controlChange (grp.getD 0) c
      (BitVec.ofNat 7 d1.toNat) (BitVec.ofNat 32 (widen d2.toNat 7 32))))) ∧
    Answers (.m1ProgramChange grp c d1) s (.ok (.event (.programChange (grp.getD 0) c (BitVec.ofNat 7 d1.toNat) .noBank))) ∧
    Answers (.m1ChannelPressure grp c d1) s (.ok (.event (.channelPressure (grp.getD 0) c
      (BitVec.ofNat 32 (widen d1.toNat 7 32))))) ∧
    Answers (.m1PitchBend grp c d1 d2) s (.ok (.event (.pitchBend (grp.getD 0) c
      (BitVec.ofNat 32 (widenC (d2.toNat * 2 ^ 7 + d1.toNat) 14 32))))) ∧
    Answers (.m1TuneRequest grp) s (.ok (.event (.tuneRequest (grp.getD 0)))) ∧
    ∀ (id : U7) (d : List U7), 0x01 ≤ id.toNat → id.toNat ≤ 0x7D →
      Answers (.m1Sysex grp ((id :: d).map (fun x => dataByte x.toNat) ++ [0xF7])) s
        (.ok (.event (.sysex7 (grp.getD 0) (.one id) d)))

/-- For all operands a received MIDI 1.0 message completes with the response of M1_FROMBYTES of its bytes; SysEx with that of
SX_PARSE of what its framing bytes hold, when they are there and hold 7-bit bytes (assumption 5). -/
def Obligations.ByteWireFormsStandForFromBytes : Prop :=
  ∀ (grp : Option U4) (c : U4) (d1 d2 : Byte) (rest : List Byte) (s : State),
    (∃ r, Answers (.m1NoteOff grp c d1 d2) s r ∧ Answers (.m1FromBytes [statusByte 0x8 c, d1, d2] grp) s r) ∧
    (∃ r, Answers (.m1NoteOn grp c d1 d2) s r ∧ Answers (.m1FromBytes [statusByte 0x9 c, d1, d2] grp) s r) ∧
    (∃ r, Answers (.m1PolyPressure grp c d1 d2) s r ∧ Answers (.m1FromBytes [statusByte 0xA c, d1, d2] grp) s r) ∧
    (∃ r, Answers (.m1ControlChange grp c d1 d2) s r ∧ Answers (.m1FromBytes [statusByte 0xB c, d1, d2] grp) s r) ∧
    (∃ r, Answers (.m1ProgramChange grp c d1) s r ∧ Answers (.m1FromBytes [statusByte 0xC c, d1] grp) s r) ∧
    (∃ r, Answers (.m1ChannelPressure grp c d1) s r ∧ Answers (.m1FromBytes [statusByte 0xD c, d1] grp) s r) ∧
    (∃ r, Answers (.m1PitchBend grp c d1 d2) s r ∧ Answers (.m1FromBytes [statusByte 0xE c, d1, d2] grp) s r) ∧
    (∃ r, Answers (.m1TuneRequest grp) s r ∧ Answers (.m1FromBytes [0xF6] grp) s r) ∧
    (∃ r, Answers (.m1Sysex grp rest) s r ∧ Answers (.m1FromBytes (0xF0 :: rest) grp) s r) ∧
    ∀ d : List Byte, (∀ x ∈ d, x.toNat < 0x80) →
      ∃ r, Answers (.m1Sysex grp (d ++ [0xF7])) s r ∧ Answers (.sxParse d (grp.getD 0)) s r

/-- R170, R175: M1_FROMBYTES of an operand that does not start with 0xF0 gives an Event exactly when the operand is one whole
message: an admitted first byte, the length it gives, and 7-bit data bytes; otherwise MALFORMED_WIRE_DATA. One that starts
with 0xF0 can give an Event, and only if its first 0xF7 is its last byte. -/
def Obligations.BytesDecodeOnlyWholeMessages : Prop :=
  ∀ (grp : Option U4) (s : State),
    Answers (.m1FromBytes [] grp) s (.error .malformedWireData) ∧
    (∃ rest e, Answers (.m1FromBytes (0xF0 :: rest) grp) s (.ok (.event e))) ∧
    (∀ rest : List Byte, (¬ ∃ d, rest = d ++ [0xF7] ∧ (0xF7 : Byte) ∉ d) →
      Answers (.m1FromBytes (0xF0 :: rest) grp) s (.error .malformedWireData)) ∧
    ∀ (b0 : Byte) (rest : List Byte), b0 ≠ 0xF0 →
      let whole := (∀ x ∈ rest, x.toNat < 0x80) ∧
        (((0x80 ≤ b0.toNat ∧ b0.toNat ≤ 0xBF ∨ 0xE0 ≤ b0.toNat ∧ b0.toNat ≤ 0xEF) ∧ rest.length = 2) ∨
          ((0xC0 ≤ b0.toNat ∧ b0.toNat ≤ 0xDF) ∧ rest.length = 1) ∨ (b0 = 0xF6 ∧ rest.length = 0))
      (whole → ∃ e, Answers (.m1FromBytes (b0 :: rest) grp) s (.ok (.event e)) ∧ e.group = grp.getD 0) ∧
      (¬ whole → Answers (.m1FromBytes (b0 :: rest) grp) s (.error .malformedWireData))

/-- R315: every Event a MIDI 1.0 form can carry comes back from its bytes, each validated value at its MIDI 1.0 resolution,
and unchanged when its values are on the MIDI 1.0 grid; a SysEx Event only with both framing bytes. -/
def Obligations.ByteRoundTrip : Prop :=
  ∀ (e : Event) (s : State), e.wf = true →
    (¬ only2 e → ∃ m, Answers (.m1ToBytes e none none) s (.ok (.bytes m)) ∧
      Answers (.m1FromBytes m (some e.group)) s (.ok (.event (proj1 e)))) ∧
    (eventOnGrid e → proj1 e = e) ∧
    ∀ (a b : Bool) (m : List Byte), e.isSysEx = true → (a && b) = false →
      Answers (.m1ToBytes e (some a) (some b)) s (.ok (.bytes m)) →
      Answers (.m1FromBytes m (some e.group)) s (.error .malformedWireData)

/-- R604: M1_TOBYTES and UMP_TOWORDS under P1 answer UNSUPPORTED_PROTOCOL_COMBINATION for a per-note controller, a note
attribute or a bank, and succeed on every other Event; UMP_TOWORDS under P2 never fails. -/
def Obligations.UnsupportedCombinations : Prop :=
  ∀ (e : Event) (s : State), e.wf = true →
    (∀ a b, (only2 e → Answers (.m1ToBytes e a b) s (.error .unsupportedProtocolCombination)) ∧
      (¬ only2 e → ∃ m, Answers (.m1ToBytes e a b) s (.ok (.bytes m)))) ∧
    (only2 e → Answers (.umpToWords e .p1) s (.error .unsupportedProtocolCombination)) ∧
    (¬ only2 e → ∃ ws, Answers (.umpToWords e .p1) s (.ok (.words ws))) ∧
    ∃ ws, Answers (.umpToWords e .p2) s (.ok (.words ws))

/-- R160, R316, R436: what the encoders emit for each kind is what the classification table says: the status, the message
type, the group, the MT 0x4 status, and the length; a kind without a form, and a value no MIDI 1.0 form carries, is refused. -/
def Obligations.EncodersFollowTheClassification : Prop :=
  ∀ (e : Event) (s : State), e.wf = true →
    (∀ a b m, Answers (.m1ToBytes e a b) s (.ok (.bytes m)) →
      ∃ st len, (classification e.kind).midi1 = some (st, len) ∧ m.length = len.byteCount e (a.getD true) (b.getD true) ∧
        (a ≠ some false → ∃ b0, m.head? = some b0 ∧ b0.toNat / 16 = st.toNat / 16 ∧ (0xF0 ≤ st.toNat → b0 = st))) ∧
    (∀ ws, Answers (.umpToWords e .p1) s (.ok (.words ws)) →
      ∃ mt len w, (classification e.kind).p1 = some (mt, len) ∧ ws.length = len.wordCount e ∧ ws.head? = some w ∧
        w.toNat / 2 ^ 28 = mt.toNat ∧ w.toNat / 2 ^ 24 % 16 = e.group.toNat) ∧
    ((classification e.kind).midi1 = none ↔ (classification e.kind).p1 = none) ∧
    (e.isSysEx = true → 1 ≤ (frame e).length) ∧
    ((classification e.kind).midi1 = none ∨ has2Only e = true →
      (∀ a b, Answers (.m1ToBytes e a b) s (.error .unsupportedProtocolCombination)) ∧
      Answers (.umpToWords e .p1) s (.error .unsupportedProtocolCombination)) ∧
    ∃ ws w, Answers (.umpToWords e .p2) s (.ok (.words ws)) ∧ ws.length = (classification e.kind).p2.2.2.wordCount e ∧
      ws.head? = some w ∧ w.toNat / 2 ^ 28 = (classification e.kind).p2.1.toNat ∧
      w.toNat / 2 ^ 24 % 16 = e.group.toNat ∧
      ∀ st, (classification e.kind).p2.2.1 = some st → w.toNat / 2 ^ 20 % 16 = st.toNat

/-! ## UMP words -/

/-- R405, R410 to R416: the tune request and the MIDI 1.0 channel voice word in both directions; padding is written as zero
and ignored. -/
def Obligations.ProtocolOneWords : Prop :=
  ∀ (g c : U4) (s : State),
    (∀ (n : U7) (vel : U16) (x : U32) (p : Protocol),
      Answers (.umpToWords (.tuneRequest g) p) s (.ok (.words [headWord 0x1 g 0xF 6 0 0])) ∧
      Answers (.umpToWords (.noteOff g c n vel 0 0) .p1) s
        (.ok (.words [headWord 0x2 g 0x8 c n.toNat (narrow vel.toNat 16 7)])) ∧
      Answers (.umpToWords (.noteOn g c n vel 0 0) .p1) s
        (.ok (.words [headWord 0x2 g 0x9 c n.toNat (narrow vel.toNat 16 7)])) ∧
      (∀ (aty : Byte) (ad : U16), (aty ≠ 0 ∨ ad ≠ 0) →
        Answers (.umpToWords (.noteOff g c n vel aty ad) .p1) s (.error .unsupportedProtocolCombination) ∧
        Answers (.umpToWords (.noteOn g c n vel aty ad) .p1) s (.error .unsupportedProtocolCombination)) ∧
      Answers (.umpToWords (.polyPressure g c n x) .p1) s
        (.ok (.words [headWord 0x2 g 0xA c n.toNat (narrow x.toNat 32 7)])) ∧
      Answers (.umpToWords (.controlChange g c n x) .p1) s
        (.ok (.words [headWord 0x2 g 0xB c n.toNat (narrow x.toNat 32 7)])) ∧
      Answers (.umpToWords (.programChange g c n .noBank) .p1) s (.ok (.words [headWord 0x2 g 0xC c n.toNat 0])) ∧
      (∀ m l, Answers (.umpToWords (.programChange g c n (.bank m l)) .p1) s (.error .unsupportedProtocolCombination)) ∧
      Answers (.umpToWords (.channelPressure g c x) .p1) s
        (.ok (.words [headWord 0x2 g 0xD c (narrow x.toNat 32 7) 0])) ∧
      Answers (.umpToWords (.pitchBend g c x) .p1) s
        (.ok (.words [headWord 0x2 g 0xE c (narrow x.toNat 32 14 % 2 ^ 7) (narrow x.toNat 32 14 / 2 ^ 7)]))) ∧
    ∀ b1 b2 : Byte,
      Answers (.umpFromWords [headWord 0x1 g 0xF 6 b1.toNat b2.toNat]) s (.ok (.event (.tuneRequest g))) ∧
      (b1.toNat < 0x80 ∧ b2.toNat < 0x80 →
        Answers (.umpFromWords [headWord 0x2 g 0x8 c b1.toNat b2.toNat]) s (.ok (.event (.noteOff g c
          (BitVec.ofNat 7 b1.toNat) (BitVec.ofNat 16 (widen b2.toNat 7 16)) 0 0))) ∧
        Answers (.umpFromWords [headWord 0x2 g 0x9 c b1.toNat b2.toNat]) s (.ok (.event (.noteOn g c
          (BitVec.ofNat 7 b1.toNat) (BitVec.ofNat 16 (widen b2.toNat 7 16)) 0 0))) ∧
        Answers (.umpFromWords [headWord 0x2 g 0xA c b1.toNat b2.toNat]) s (.ok (.event (.polyPressure g c
          (BitVec.ofNat 7 b1.toNat) (BitVec.ofNat 32 (widen b2.toNat 7 32))))) ∧
        Answers (.umpFromWords [headWord 0x2 g 0xB c b1.toNat b2.toNat]) s (.ok (.event (.controlChange g c
          (BitVec.ofNat 7 b1.toNat) (BitVec.ofNat 32 (widen b2.toNat 7 32))))) ∧
        Answers (.umpFromWords [headWord 0x2 g 0xE c b1.toNat b2.toNat]) s (.ok (.event (.pitchBend g c
          (BitVec.ofNat 32 (widenC (b2.toNat * 2 ^ 7 + b1.toNat) 14 32)))))) ∧
      (0x80 ≤ b1.toNat ∨ 0x80 ≤ b2.toNat → ∀ st ∈ [0x8, 0x9, 0xA, 0xB, 0xE],
        Answers (.umpFromWords [headWord 0x2 g st c b1.toNat b2.toNat]) s (.error .malformedWireData)) ∧
      (b1.toNat < 0x80 →
        Answers (.umpFromWords [headWord 0x2 g 0xC c b1.toNat b2.toNat]) s (.ok (.event (.programChange g c
          (BitVec.ofNat 7 b1.toNat) .noBank))) ∧
        Answers (.umpFromWords [headWord 0x2 g 0xD c b1.toNat b2.toNat]) s (.ok (.event (.channelPressure g c
          (BitVec.ofNat 32 (widen b1.toNat 7 32)))))) ∧
      (0x80 ≤ b1.toNat → ∀ st ∈ [0xC, 0xD],
        Answers (.umpFromWords [headWord 0x2 g st c b1.toNat b2.toNat]) s (.error .malformedWireData))

/-- R420 to R428: the MIDI 2.0 channel voice packets in both directions; every value at full resolution, reserved fields
written as zero and ignored. -/
def Obligations.ProtocolTwoWords : Prop :=
  ∀ (g c : U4) (s : State),
    (∀ (n : U7) (vel ad : U16) (aty i : Byte) (x : U32) (m l : U7),
      Answers (.umpToWords (.noteOff g c n vel aty ad) .p2) s
        (.ok (.words [headWord 0x4 g 0x8 c n.toNat aty.toNat, pairWord vel.toNat ad.toNat])) ∧
      Answers (.umpToWords (.noteOn g c n vel aty ad) .p2) s
        (.ok (.words [headWord 0x4 g 0x9 c n.toNat aty.toNat, pairWord vel.toNat ad.toNat])) ∧
      Answers (.umpToWords (.polyPressure g c n x) .p2) s (.ok (.words [headWord 0x4 g 0xA c n.toNat 0, x])) ∧
      Answers (.umpToWords (.controlChange g c n x) .p2) s (.ok (.words [headWord 0x4 g 0xB c n.toNat 0, x])) ∧
      Answers (.umpToWords (.programChange g c n (.bank m l)) .p2) s
        (.ok (.words [headWord 0x4 g 0xC c 0 1, bytesWord n.toNat 0 m.toNat l.toNat])) ∧
      Answers (.umpToWords (.programChange g c n .noBank) .p2) s
        (.ok (.words [headWord 0x4 g 0xC c 0 0, bytesWord n.toNat 0 0 0])) ∧
      Answers (.umpToWords (.channelPressure g c x) .p2) s (.ok (.words [headWord 0x4 g 0xD c 0 0, x])) ∧
      Answers (.umpToWords (.pitchBend g c x) .p2) s (.ok (.words [headWord 0x4 g 0xE c 0 0, x])) ∧
      Answers (.umpToWords (.pncRegistered g c n i x) .p2) s (.ok (.words [headWord 0x4 g 0x0 c n.toNat i.toNat, x])) ∧
      Answers (.umpToWords (.pncAssignable g c n i x) .p2) s (.ok (.words [headWord 0x4 g 0x1 c n.toNat i.toNat, x])) ∧
      Answers (.umpToWords (.pncRegistered g c n i x) .p1) s (.error .unsupportedProtocolCombination) ∧
      Answers (.umpToWords (.pncAssignable g c n i x) .p1) s (.error .unsupportedProtocolCombination)) ∧
    (∀ (f1 f2 : Byte) (vel ad : U16) (x : U32), f1.toNat < 0x80 →
      Answers (.umpFromWords [headWord 0x4 g 0x8 c f1.toNat f2.toNat, pairWord vel.toNat ad.toNat]) s
        (.ok (.event (.noteOff g c (BitVec.ofNat 7 f1.toNat) vel f2 ad))) ∧
      Answers (.umpFromWords [headWord 0x4 g 0x9 c f1.toNat f2.toNat, pairWord vel.toNat ad.toNat]) s
        (.ok (.event (.noteOn g c (BitVec.ofNat 7 f1.toNat) vel f2 ad))) ∧
      Answers (.umpFromWords [headWord 0x4 g 0xA c f1.toNat f2.toNat, x]) s
        (.ok (.event (.polyPressure g c (BitVec.ofNat 7 f1.toNat) x))) ∧
      Answers (.umpFromWords [headWord 0x4 g 0xB c f1.toNat f2.toNat, x]) s
        (.ok (.event (.controlChange g c (BitVec.ofNat 7 f1.toNat) x))) ∧
      Answers (.umpFromWords [headWord 0x4 g 0x0 c f1.toNat f2.toNat, x]) s
        (.ok (.event (.pncRegistered g c (BitVec.ofNat 7 f1.toNat) f2 x))) ∧
      Answers (.umpFromWords [headWord 0x4 g 0x1 c f1.toNat f2.toNat, x]) s
        (.ok (.event (.pncAssignable g c (BitVec.ofNat 7 f1.toNat) f2 x)))) ∧
    (∀ (f1 f2 : Byte) (x : U32), 0x80 ≤ f1.toNat → ∀ st ∈ [0x0, 0x1, 0x8, 0x9, 0xA, 0xB],
      Answers (.umpFromWords [headWord 0x4 g st c f1.toNat f2.toNat, x]) s (.error .malformedWireData)) ∧
    (∀ (f1 f2 : Byte) (x : U32),
      Answers (.umpFromWords [headWord 0x4 g 0xD c f1.toNat f2.toNat, x]) s (.ok (.event (.channelPressure g c x))) ∧
      Answers (.umpFromWords [headWord 0x4 g 0xE c f1.toNat f2.toNat, x]) s (.ok (.event (.pitchBend g c x)))) ∧
    ∀ f1 f2 p r m l : Byte,
      (f2.toNat % 2 = 0 → p.toNat < 0x80 →
        Answers (.umpFromWords [headWord 0x4 g 0xC c f1.toNat f2.toNat, bytesWord p.toNat r.toNat m.toNat l.toNat]) s
          (.ok (.event (.programChange g c (BitVec.ofNat 7 p.toNat) .noBank)))) ∧
      (f2.toNat % 2 = 1 → p.toNat < 0x80 → m.toNat < 0x80 → l.toNat < 0x80 →
        Answers (.umpFromWords [headWord 0x4 g 0xC c f1.toNat f2.toNat, bytesWord p.toNat r.toNat m.toNat l.toNat]) s
          (.ok (.event (.programChange g c (BitVec.ofNat 7 p.toNat)
            (.bank (BitVec.ofNat 7 m.toNat) (BitVec.ofNat 7 l.toNat)))))) ∧
      (0x80 ≤ p.toNat ∨ (f2.toNat % 2 = 1 ∧ (0x80 ≤ m.toNat ∨ 0x80 ≤ l.toNat)) →
        Answers (.umpFromWords [headWord 0x4 g 0xC c f1.toNat f2.toNat, bytesWord p.toNat r.toNat m.toNat l.toNat]) s
          (.error .malformedWireData))

/-- R430: a SysEx Event is the words of the packets of its data sequence, under both protocols; packets of message type 0x3
and one group are unchunked and parsed, and anything else after an MT 0x3 word is MALFORMED_WIRE_DATA. -/
def Obligations.SysExInWords : Prop :=
  (∀ (e : Event) (p : Protocol) (s : State), e.wf = true → e.isSysEx = true →
    ∃ d ps, Answers (.sxFrame e) s (.ok (.data d)) ∧ Answers (.sxChunk d e.group) s (.ok (.packets ps)) ∧
      Answers (.umpToWords e p) s (.ok (.words (ps.flatMap fun q => [q.w1, q.w2])))) ∧
  ∀ (p : Packet) (rest : List Packet) (s : State), p.mt = 0x3 →
    ((∀ q ∈ rest, q.mt = 0x3 ∧ q.grp = p.grp) →
      (∀ d, Answers (.sxUnchunk (p :: rest)) s (.ok (.data d)) →
        ∃ r, Answers (.sxParse (d.map fun x => dataByte x.toNat) (BitVec.ofNat 4 p.grp)) s r ∧
          Answers (.umpFromWords ((p :: rest).flatMap fun q => [q.w1, q.w2])) s r) ∧
      (Answers (.sxUnchunk (p :: rest)) s (.error .malformedWireData) →
        Answers (.umpFromWords ((p :: rest).flatMap fun q => [q.w1, q.w2])) s (.error .malformedWireData))) ∧
    ((¬ ∀ q ∈ rest, q.mt = 0x3 ∧ q.grp = p.grp) →
      Answers (.umpFromWords ((p :: rest).flatMap fun q => [q.w1, q.w2])) s (.error .malformedWireData)) ∧
    ∀ w : Word, Answers (.umpFromWords ((p :: rest).flatMap (fun q => [q.w1, q.w2]) ++ [w])) s (.error .malformedWireData)

/-- A received UMP message of one word is the Event of its form when its 7-bit fields are 7-bit (R405, R410 to R416), and for
all operands it completes with the response of UMP_FROMWORDS of its word, for which it stands (assumption 5). -/
def Obligations.OneWordFormsGiveTheirEvent : Prop :=
  ∀ (g c : U4) (b1 b2 : Byte) (s : State),
    (b1.toNat < 0x80 → b2.toNat < 0x80 →
      Answers (.ump2NoteOff g c b1 b2) s (.ok (.event (.noteOff g c
        (BitVec.ofNat 7 b1.toNat) (BitVec.ofNat 16 (widen b2.toNat 7 16)) 0 0))) ∧
      Answers (.ump2NoteOn g c b1 b2) s (.ok (.event (.noteOn g c
        (BitVec.ofNat 7 b1.toNat) (BitVec.ofNat 16 (widen b2.toNat 7 16)) 0 0))) ∧
      Answers (.ump2PolyPressure g c b1 b2) s (.ok (.event (.polyPressure g c
        (BitVec.ofNat 7 b1.toNat) (BitVec.ofNat 32 (widen b2.toNat 7 32))))) ∧
      Answers (.ump2ControlChange g c b1 b2) s (.ok (.event (.controlChange g c
        (BitVec.ofNat 7 b1.toNat) (BitVec.ofNat 32 (widen b2.toNat 7 32))))) ∧
      Answers (.ump2PitchBend g c b1 b2) s (.ok (.event (.pitchBend g c
        (BitVec.ofNat 32 (widenC (b2.toNat * 2 ^ 7 + b1.toNat) 14 32)))))) ∧
    (b1.toNat < 0x80 →
      Answers (.ump2ProgramChange g c b1 b2) s (.ok (.event (.programChange g c (BitVec.ofNat 7 b1.toNat) .noBank))) ∧
      Answers (.ump2ChannelPressure g c b1 b2) s (.ok (.event (.channelPressure g c
        (BitVec.ofNat 32 (widen b1.toNat 7 32)))))) ∧
    Answers (.ump1TuneRequest g (BitVec.ofNat 16 (b1.toNat * 256 + b2.toNat))) s (.ok (.event (.tuneRequest g))) ∧
    (∃ r, Answers (.ump1TuneRequest g (BitVec.ofNat 16 (b1.toNat * 256 + b2.toNat))) s r ∧
      Answers (.umpFromWords [headWord 0x1 g 0xF 6 b1.toNat b2.toNat]) s r) ∧
    (∃ r, Answers (.ump2NoteOff g c b1 b2) s r ∧ Answers (.umpFromWords [headWord 0x2 g 0x8 c b1.toNat b2.toNat]) s r) ∧
    (∃ r, Answers (.ump2NoteOn g c b1 b2) s r ∧ Answers (.umpFromWords [headWord 0x2 g 0x9 c b1.toNat b2.toNat]) s r) ∧
    (∃ r, Answers (.ump2PolyPressure g c b1 b2) s r ∧
      Answers (.umpFromWords [headWord 0x2 g 0xA c b1.toNat b2.toNat]) s r) ∧
    (∃ r, Answers (.ump2ControlChange g c b1 b2) s r ∧
      Answers (.umpFromWords [headWord 0x2 g 0xB c b1.toNat b2.toNat]) s r) ∧
    (∃ r, Answers (.ump2ProgramChange g c b1 b2) s r ∧
      Answers (.umpFromWords [headWord 0x2 g 0xC c b1.toNat b2.toNat]) s r) ∧
    (∃ r, Answers (.ump2ChannelPressure g c b1 b2) s r ∧
      Answers (.umpFromWords [headWord 0x2 g 0xD c b1.toNat b2.toNat]) s r) ∧
    ∃ r, Answers (.ump2PitchBend g c b1 b2) s r ∧ Answers (.umpFromWords [headWord 0x2 g 0xE c b1.toNat b2.toNat]) s r

/-- A received MIDI 2.0 channel voice packet is the Event of its form when its 7-bit fields are 7-bit (R420 to R428), and for
all operands it completes with the response of UMP_FROMWORDS of its words, for which it stands (assumption 5). -/
def Obligations.TwoWordFormsGiveTheirEvent : Prop :=
  ∀ (g c : U4) (f1 f2 p r m l : Byte) (vel ad rsv : U16) (x : U32) (s : State),
    (f1.toNat < 0x80 →
      Answers (.ump4NoteOff g c f1 f2 vel ad) s (.ok (.event (.noteOff g c (BitVec.ofNat 7 f1.toNat) vel f2 ad))) ∧
      Answers (.ump4NoteOn g c f1 f2 vel ad) s (.ok (.event (.noteOn g c (BitVec.ofNat 7 f1.toNat) vel f2 ad))) ∧
      Answers (.ump4PolyPressure g c f1 f2 x) s (.ok (.event (.polyPressure g c (BitVec.ofNat 7 f1.toNat) x))) ∧
      Answers (.ump4ControlChange g c f1 f2 x) s (.ok (.event (.controlChange g c (BitVec.ofNat 7 f1.toNat) x))) ∧
      Answers (.ump4PncRegistered g c f1 f2 x) s (.ok (.event (.pncRegistered g c (BitVec.ofNat 7 f1.toNat) f2 x))) ∧
      Answers (.ump4PncAssignable g c f1 f2 x) s (.ok (.event (.pncAssignable g c (BitVec.ofNat 7 f1.toNat) f2 x)))) ∧
    (f2.toNat % 2 = 0 → p.toNat < 0x80 →
      Answers (.ump4ProgramChange g c f1 f2 p r m l) s
        (.ok (.event (.programChange g c (BitVec.ofNat 7 p.toNat) .noBank)))) ∧
    (f2.toNat % 2 = 1 → p.toNat < 0x80 → m.toNat < 0x80 → l.toNat < 0x80 →
      Answers (.ump4ProgramChange g c f1 f2 p r m l) s (.ok (.event (.programChange g c (BitVec.ofNat 7 p.toNat)
        (.bank (BitVec.ofNat 7 m.toNat) (BitVec.ofNat 7 l.toNat)))))) ∧
    Answers (.ump4ChannelPressure g c rsv x) s (.ok (.event (.channelPressure g c x))) ∧
    Answers (.ump4PitchBend g c rsv x) s (.ok (.event (.pitchBend g c x))) ∧
    (∃ q, Answers (.ump4NoteOff g c f1 f2 vel ad) s q ∧
      Answers (.umpFromWords [headWord 0x4 g 0x8 c f1.toNat f2.toNat, pairWord vel.toNat ad.toNat]) s q) ∧
    (∃ q, Answers (.ump4NoteOn g c f1 f2 vel ad) s q ∧
      Answers (.umpFromWords [headWord 0x4 g 0x9 c f1.toNat f2.toNat, pairWord vel.toNat ad.toNat]) s q) ∧
    (∃ q, Answers (.ump4PolyPressure g c f1 f2 x) s q ∧
      Answers (.umpFromWords [headWord 0x4 g 0xA c f1.toNat f2.toNat, x]) s q) ∧
    (∃ q, Answers (.ump4ControlChange g c f1 f2 x) s q ∧
      Answers (.umpFromWords [headWord 0x4 g 0xB c f1.toNat f2.toNat, x]) s q) ∧
    (∃ q, Answers (.ump4ProgramChange g c f1 f2 p r m l) s q ∧
      Answers (.umpFromWords [headWord 0x4 g 0xC c f1.toNat f2.toNat, bytesWord p.toNat r.toNat m.toNat l.toNat]) s q) ∧
    (∃ q, Answers (.ump4ChannelPressure g c rsv x) s q ∧
      Answers (.umpFromWords [headWord 0x4 g 0xD c (rsv.toNat / 256) (rsv.toNat % 256), x]) s q) ∧
    (∃ q, Answers (.ump4PitchBend g c rsv x) s q ∧
      Answers (.umpFromWords [headWord 0x4 g 0xE c (rsv.toNat / 256) (rsv.toNat % 256), x]) s q) ∧
    (∃ q, Answers (.ump4PncRegistered g c f1 f2 x) s q ∧
      Answers (.umpFromWords [headWord 0x4 g 0x0 c f1.toNat f2.toNat, x]) s q) ∧
    ∃ q, Answers (.ump4PncAssignable g c f1 f2 x) s q ∧
      Answers (.umpFromWords [headWord 0x4 g 0x1 c f1.toNat f2.toNat, x]) s q

/-- R171, and the word counts of R107: a message type, a status, a packet status, a byte count or a word count that is not
admitted makes UMP_FROMWORDS answer MALFORMED_WIRE_DATA. -/
def Obligations.WordsOfNoFormAreMalformed : Prop :=
  ∀ s : State,
    Answers (.umpFromWords []) s (.error .malformedWireData) ∧
    ∀ (w : Word) (rest : List Word),
      let mt := w.toNat / 2 ^ 28
      let st := w.toNat / 2 ^ 20 % 16
      (mt = 0x0 ∨ 0x5 ≤ mt ∨ (mt = 0x1 ∧ w.toNat / 2 ^ 16 % 256 ≠ 0xF6) ∨ (mt = 0x2 ∧ (st < 0x8 ∨ 0xE < st)) ∨
        (mt = 0x4 ∧ st ∈ [0x2, 0x3, 0x4, 0x5, 0x6, 0x7, 0xF]) ∨
        (mt = 0x3 ∧ ∃ p ∈ pairWords (w :: rest), 0x3 < p.st ∨ 6 < p.cnt) ∨
        ((mt = 0x1 ∨ mt = 0x2) ∧ rest.length ≠ 0) ∨ (mt = 0x4 ∧ rest.length ≠ 1) ∨ (mt = 0x3 ∧ rest.length % 2 = 0)) →
      Answers (.umpFromWords (w :: rest)) s (.error .malformedWireData)

/-- A decoder ignores the reserved and padding fields, zero fill beyond a packet's byte count included (R172). The clauses on
UMP1, UMP2 and UMP4 forms are about wire-form instructions, which are the decode of their words by the model's choice
(assumption 5). -/
def Obligations.ReservedFieldsAreIgnored : Prop :=
  ∀ (g c : U4) (s : State),
    (∀ r r' : U16, exec (.ump1TuneRequest g r) s = exec (.ump1TuneRequest g r') s) ∧
    (∀ b r r' : Byte, exec (.ump2ProgramChange g c b r) s = exec (.ump2ProgramChange g c b r') s ∧
      exec (.ump2ChannelPressure g c b r) s = exec (.ump2ChannelPressure g c b r') s) ∧
    (∀ (b r r' : Byte) (x : U32), exec (.ump4PolyPressure g c b r x) s = exec (.ump4PolyPressure g c b r' x) s ∧
      exec (.ump4ControlChange g c b r x) s = exec (.ump4ControlChange g c b r' x) s) ∧
    (∀ (r r' : U16) (x : U32), exec (.ump4ChannelPressure g c r x) s = exec (.ump4ChannelPressure g c r' x) s ∧
      exec (.ump4PitchBend g c r x) s = exec (.ump4PitchBend g c r' x) s) ∧
    (∀ r r' o o' p q q' m l : Byte, o.toNat % 2 = o'.toNat % 2 →
      exec (.ump4ProgramChange g c r o p q m l) s = exec (.ump4ProgramChange g c r' o' p q' m l) s) ∧
    (∀ r o p q m m' l l' : Byte, o.toNat % 2 = 0 →
      exec (.ump4ProgramChange g c r o p q m l) s = exec (.ump4ProgramChange g c r o p q m' l') s) ∧
    ∀ p q : Packet, p.mt = q.mt → p.grp = q.grp → p.st = q.st → p.cnt = q.cnt →
      (∀ k, k < p.cnt → p.slot k = q.slot k) →
      exec (.sxReasmPush p.w1 p.w2) s = exec (.sxReasmPush q.w1 q.w2) s ∧
      exec (.sxUnchunk [p]) s = exec (.sxUnchunk [q]) s

/-- R435: every Event comes back unchanged from its words under P2, and from its words under P1, where it has a P1 form, at
MIDI 1.0 resolution: unchanged when its values are on the MIDI 1.0 grid. -/
def Obligations.WordRoundTrip : Prop :=
  ∀ (e : Event) (s : State), e.wf = true →
    (∃ ws, Answers (.umpToWords e .p2) s (.ok (.words ws)) ∧ Answers (.umpFromWords ws) s (.ok (.event e))) ∧
    (¬ only2 e → ∃ ws, Answers (.umpToWords e .p1) s (.ok (.words ws)) ∧
      Answers (.umpFromWords ws) s (.ok (.event (proj1 e))) ∧
      (eventOnGrid e → Answers (.umpFromWords ws) s (.ok (.event e))))

/-! ## SysEx framing and chunking -/

/-- R500, R501: the data sequence of each SysEx Event, and the Event of each byte sequence; SX_FRAME of an Event of another kind
is refused at the command boundary. -/
def Obligations.FramingAndParsing : Prop :=
  ∀ (g : U4) (d : List U7) (b1 b2 b3 : U7) (s : State),
    (∀ e : Event, e.isSysEx = false → exec (.sxFrame e) s = .refused (.boundary (.illTyped 0x40))) ∧
    (∀ id : U7, 0x01 ≤ id.toNat → id.toNat ≤ 0x7D →
      Answers (.sxFrame (.sysex7 g (.one id) d)) s (.ok (.data (id :: d))) ∧
      Answers (.sxParse ((id :: d).map fun x => dataByte x.toNat) g) s (.ok (.event (.sysex7 g (.one id) d)))) ∧
    Answers (.sxFrame (.sysex7 g (.three b1 b2) d)) s (.ok (.data (0x00 :: b1 :: b2 :: d))) ∧
    Answers (.sxParse ((0x00 :: b1 :: b2 :: d).map fun x => dataByte x.toNat) g) s
      (.ok (.event (.sysex7 g (.three b1 b2) d))) ∧
    Answers (.sxFrame (.universalSysex7 g .nonRealtime b1 b2 b3 d)) s (.ok (.data (0x7E :: b1 :: b2 :: b3 :: d))) ∧
    Answers (.sxParse ((0x7E :: b1 :: b2 :: b3 :: d).map fun x => dataByte x.toNat) g) s
      (.ok (.event (.universalSysex7 g .nonRealtime b1 b2 b3 d))) ∧
    Answers (.sxFrame (.universalSysex7 g .realtime b1 b2 b3 d)) s (.ok (.data (0x7F :: b1 :: b2 :: b3 :: d))) ∧
    Answers (.sxParse ((0x7F :: b1 :: b2 :: b3 :: d).map fun x => dataByte x.toNat) g) s
      (.ok (.event (.universalSysex7 g .realtime b1 b2 b3 d))) ∧
    ∀ m : List Byte, (m = [] ∨ (∃ x ∈ m, 0x80 ≤ x.toNat) ∨ (m.head? = some 0x00 ∧ m.length < 3) ∨
        ((m.head? = some 0x7E ∨ m.head? = some 0x7F) ∧ m.length < 4)) →
      Answers (.sxParse m g) s (.error .malformedWireData)

/-- R502: framing and parsing are inverse, in both directions. -/
def Obligations.FramingLaws : Prop :=
  (∀ (e : Event) (s : State), e.wf = true → e.isSysEx = true →
    ∃ d, Answers (.sxFrame e) s (.ok (.data d)) ∧
      Answers (.sxParse (d.map fun x => dataByte x.toNat) e.group) s (.ok (.event e))) ∧
  ∀ (m : List Byte) (g : U4) (e : Event) (s : State), Answers (.sxParse m g) s (.ok (.event e)) →
    e.group = g ∧ ∃ d, Answers (.sxFrame e) s (.ok (.data d)) ∧ d.map (fun x => dataByte x.toNat) = m

/-- R506, R507: the packets of SX_CHUNK: how many, and of each its message type, group, status, byte count and six slots,
zero fill included; the counted slots in order are the data. -/
def Obligations.ChunkPackets : Prop :=
  ∀ (d : List U7) (g : U4) (s : State), ∃ ps, Answers (.sxChunk d g) s (.ok (.packets ps)) ∧
    ps.length = (d.length + 5) / 6 ∧ ps.flatMap Packet.bytes = d ∧
    ∀ (k : Nat) (p : Packet), ps[k]? = some p →
      p.mt = 0x3 ∧ p.grp = g.toNat ∧ p.cnt = min 6 (d.length - 6 * k) ∧
      p.st = (if k = 0 then (if d.length ≤ 6 then 0x0 else 0x1) else if d.length - 6 * k ≤ 6 then 0x3 else 0x2) ∧
      ∀ j, j < 6 → p.slot j = if j < p.cnt then (d.getD (6 * k + j) 0).toNat else 0

/-- R515, R516: SX_UNCHUNK gives the data bytes of its packets when each is valid, all have one group, and the statuses are
none, `complete` alone, or `start, continue*, end`; otherwise MALFORMED_WIRE_DATA. -/
def Obligations.UnchunkAcceptsWholeMessages : Prop :=
  ∀ (ps : List Packet) (s : State),
    let whole := (∀ p ∈ ps, p.Valid) ∧ (∀ p ∈ ps, ∀ q ∈ ps, p.grp = q.grp) ∧
      (ps.map Packet.st = [] ∨ ps.map Packet.st = [0x0] ∨ ∃ n, ps.map Packet.st = 0x1 :: List.replicate n 0x2 ++ [0x3])
    (whole → Answers (.sxUnchunk ps) s (.ok (.data (ps.flatMap Packet.bytes)))) ∧
    (¬ whole → Answers (.sxUnchunk ps) s (.error .malformedWireData))

/-- R517: unchunking what SX_CHUNK emits gives the data back; and packets that unchunk and are filled as SX_CHUNK fills them
are what SX_CHUNK emits, up to the zero fill. -/
def Obligations.ChunkRoundTrip : Prop :=
  (∀ (d : List U7) (g : U4) (s : State), ∃ ps, Answers (.sxChunk d g) s (.ok (.packets ps)) ∧
    Answers (.sxUnchunk ps) s (.ok (.data d))) ∧
  ∀ (p : Packet) (rest : List Packet) (d : List U7) (s : State),
    Answers (.sxUnchunk (p :: rest)) s (.ok (.data d)) →
    (∀ q ∈ (p :: rest).dropLast, q.cnt = 6) → (∀ q, (p :: rest).getLast? = some q → 1 ≤ q.cnt) →
    ∃ qs, Answers (.sxChunk d (BitVec.ofNat 4 p.grp)) s (.ok (.packets qs)) ∧ qs.length = rest.length + 1 ∧
      ∀ (k : Nat) (a b : Packet), (p :: rest)[k]? = some a → qs[k]? = some b →
        b.mt = a.mt ∧ b.grp = a.grp ∧ b.st = a.st ∧ b.cnt = a.cnt ∧
        ∀ j, j < 6 → b.slot j = if j < a.cnt then a.slot j else 0

/-! ## The streaming contexts -/

/-- R510, R511: SX_SEG_LOAD and SX_SEG_NEXT, with every field of SEG they leave and every field of the packet emitted. -/
def Obligations.SegmenterCommands : Prop :=
  ∀ s : State,
    (∀ (d : List U7) (g : U4),
      (withinBound s.pSxMax d.length → d = [] →
        WritesSeg (.sxSegLoad d g) s { active := false, data := [], len := 0, pos := 0, group := 0 } (.ok .none)) ∧
      (withinBound s.pSxMax d.length → d ≠ [] →
        WritesSeg (.sxSegLoad d g) s { active := true, data := d, len := d.length, pos := 0, group := g } (.ok .none)) ∧
      (¬ withinBound s.pSxMax d.length → Answers (.sxSegLoad d g) s (.error .refusedCapacity))) ∧
    (s.seg.active = false → Answers .sxSegNext s (.ok (.segOut .done))) ∧
    (s.seg.active = true → s.seg.len = s.seg.data.length → s.seg.pos < s.seg.len →
      ∃ p : Packet, p.mt = 0x3 ∧ p.grp = s.seg.group.toNat ∧ p.cnt = min 6 (s.seg.len - s.seg.pos) ∧
        p.st = (if s.seg.pos = 0 then (if s.seg.len ≤ 6 then 0x0 else 0x1)
          else if s.seg.len - s.seg.pos ≤ 6 then 0x3 else 0x2) ∧
        (∀ j, j < 6 → p.slot j = if j < p.cnt then (s.seg.data.getD (s.seg.pos + j) 0).toNat else 0) ∧
        (s.seg.len - s.seg.pos ≤ 6 → WritesSeg .sxSegNext s
          { active := false, data := [], len := 0, pos := 0, group := 0 } (.ok (.segOut (.packet p)))) ∧
        (6 < s.seg.len - s.seg.pos → WritesSeg .sxSegNext s
          { s.seg with pos := s.seg.pos + 6 } (.ok (.segOut (.packet p)))))

/-- After SX_SEG_LOAD, the results of the following SX_SEG_NEXT are the packets of SX_CHUNK in order and then Done, whatever
instructions that do not write SEG are executed between them (R512; for the wire forms among them, by the model's choice,
assumptions 5 and 6). -/
def Obligations.SegmenterLaw : Prop :=
  ∀ (d : List U7) (g : U4) (s t : State) (is : List Instr),
    exec (.sxSegLoad d g) s = .next t → t.response = some (.ok .none) →
    (∀ i ∈ is, i.wf = true ∧ (i = .sxSegNext ∨ touchesSeg i = false)) →
    ∃ ps, Answers (.sxChunk d g) s (.ok (.packets ps)) ∧
      responsesTo (fun i => i == .sxSegNext) is t =
        ((ps.map fun p => Response.ok (.segOut (.packet p))) ++
          List.replicate is.length (Response.ok (.segOut .done))).take (is.filter fun i => i == .sxSegNext).length

/-- R520, R521: everything one packet does to the reassembler, in every state of its context. -/
def Obligations.ReassemblerTable : Prop :=
  ∀ (p : Packet) (s : State),
    let g : U4 := BitVec.ofNat 4 p.grp
    let i : Instr := .sxReasmPush p.w1 p.w2
    let idle : ReasmContext := { active := false, buf := [] }
    (p.mt ≠ 0x3 → Answers i s (.error .malformedWireData)) ∧
    (p.mt = 0x3 → ¬ p.Valid → WritesRa i s g idle (.error .malformedWireData)) ∧
    (p.Valid → (s.raOf g).active = false →
      (p.st = 0x0 → Answers i s (.ok (.reasmOut (.message g p.bytes)))) ∧
      (p.st = 0x1 → WritesRa i s g { active := true, buf := p.bytes } (.ok (.reasmOut .none))) ∧
      (p.st = 0x2 ∨ p.st = 0x3 → Answers i s (.error .malformedWireData))) ∧
    (p.Valid → (s.raOf g).active = true →
      (p.st = 0x2 → withinBound s.pSxMax ((s.raOf g).buf.length + p.cnt) →
        WritesRa i s g { active := true, buf := (s.raOf g).buf ++ p.bytes } (.ok (.reasmOut .none))) ∧
      (p.st = 0x3 → withinBound s.pSxMax ((s.raOf g).buf.length + p.cnt) →
        WritesRa i s g idle (.ok (.reasmOut (.message g ((s.raOf g).buf ++ p.bytes))))) ∧
      (p.st = 0x2 ∨ p.st = 0x3 → ¬ withinBound s.pSxMax ((s.raOf g).buf.length + p.cnt) →
        WritesRa i s g idle (.error .refusedCapacity)) ∧
      (p.st = 0x0 ∨ p.st = 0x1 → WritesRa i s g idle (.error .malformedWireData)))

/-- The packets of SX_CHUNK pushed in order into an idle context give None for every packet but the last and the whole message
for the last, whatever instructions that do not write that context are executed between them (R524, with R81, R113 and R705;
for the wire forms among them, by the model's choice, assumptions 5 and 6). -/
def Obligations.ReassemblerLaw : Prop :=
  ∀ (d : List U7) (g : U4) (s : State) (ps : List Packet) (is : List Instr),
    d ≠ [] → s.raOf g = { active := false, buf := [] } → withinBound s.pSxMax d.length →
    Answers (.sxChunk d g) s (.ok (.packets ps)) → (∀ i ∈ is, i.wf = true) →
    is.filter (touchesRa g) = ps.map (fun p => Instr.sxReasmPush p.w1 p.w2) →
    responsesTo (touchesRa g) is s =
      List.replicate (ps.length - 1) (Response.ok (.reasmOut .none)) ++ [Response.ok (.reasmOut (.message g d))] ∧
    ∃ t, after is s = some t ∧ t.raOf g = { active := false, buf := [] }

/-- R81: a packet of one group neither writes another group's context nor reads it: in two states that agree on its own
context and on the capacity it has the same response and leaves its context the same. -/
def Obligations.GroupsAreIsolated : Prop :=
  ∀ (p : Packet) (g : U4) (s s' : State), p.grp = g.toNat → s.raOf g = s'.raOf g → s.pSxMax = s'.pSxMax →
    ∃ t t', exec (.sxReasmPush p.w1 p.w2) s = .next t ∧ exec (.sxReasmPush p.w1 p.w2) s' = .next t' ∧
      t.response = t'.response ∧ t.raOf g = t'.raOf g ∧ ∀ h, h ≠ g → t.raOf h = s.raOf h ∧ t'.raOf h = s'.raOf h

/-- R522: SX_REASM_RESET clears one context, or all of them, which is what it does when its operand is omitted. -/
def Obligations.ReassemblerReset : Prop :=
  ∀ s : State,
    (∀ g : U4, WritesRa (.sxReasmReset (some (.group g))) s g { active := false, buf := [] } (.ok .none)) ∧
    ∀ sel : Option ReasmSel, (sel = none ∨ sel = some .all) →
      ∃ t, exec (.sxReasmReset sel) s = .next t ∧ t.response = some (.ok .none) ∧
        (∀ g, t.raOf g = { active := false, buf := [] }) ∧ t.seg = s.seg ∧ t.port = s.port ∧ t.pSxMax = s.pSxMax

/-- R605: with `P_SX_MAX` unbounded no instruction answers REFUSED_CAPACITY; with a bound, one that does is a load longer than
the bound, which leaves SEG as it was, or a packet that would make its message longer, which clears its context; an MT 0x3
wire form is such a packet too (assumption 6). -/
def Obligations.CapacityRefusals : Prop :=
  ∀ (i : Instr) (s t : State), exec i s = .next t → t.response = some (.error .refusedCapacity) →
    ∃ bound, s.pSxMax = some bound ∧
      ((∃ d g, i = .sxSegLoad d g ∧ bound < d.length ∧ t.seg = s.seg) ∨
        ∃ g, effectOf i = .context g ∧ (s.raOf g).active = true ∧ bound < (s.raOf g).buf.length + 6 ∧
          t.raOf g = { active := false, buf := [] })

/-- R530 to R533: a received MT 0x3 packet is offered to the reassembler (assumption 6): what each of the four does with valid
operands in the state that admits it, and for all operands the response and state of SX_REASM_PUSH of its words. -/
def Obligations.PacketWireForms : Prop :=
  ∀ (g n : U4) (d0 d1 d2 d3 d4 d5 : Byte) (s : State),
    let b : List U7 := ([d0, d1, d2, d3, d4, d5].take n.toNat).map fun x => BitVec.ofNat 7 x.toNat
    (n.toNat ≤ 6 → (∀ x ∈ [d0, d1, d2, d3, d4, d5].take n.toNat, x.toNat < 0x80) →
      ((s.raOf g).active = false →
        Answers (.ump3Complete g n d0 d1 d2 d3 d4 d5) s (.ok (.reasmOut (.message g b))) ∧
        WritesRa (.ump3Start g n d0 d1 d2 d3 d4 d5) s g { active := true, buf := b } (.ok (.reasmOut .none))) ∧
      ((s.raOf g).active = true → withinBound s.pSxMax ((s.raOf g).buf.length + n.toNat) →
        WritesRa (.ump3Continue g n d0 d1 d2 d3 d4 d5) s g { active := true, buf := (s.raOf g).buf ++ b }
          (.ok (.reasmOut .none)) ∧
        WritesRa (.ump3End g n d0 d1 d2 d3 d4 d5) s g { active := false, buf := [] }
          (.ok (.reasmOut (.message g ((s.raOf g).buf ++ b)))))) ∧
    let w2 := bytesWord d2.toNat d3.toNat d4.toNat d5.toNat
    exec (.ump3Complete g n d0 d1 d2 d3 d4 d5) s = exec (.sxReasmPush (headWord 0x3 g 0x0 n d0.toNat d1.toNat) w2) s ∧
    exec (.ump3Start g n d0 d1 d2 d3 d4 d5) s = exec (.sxReasmPush (headWord 0x3 g 0x1 n d0.toNat d1.toNat) w2) s ∧
    exec (.ump3Continue g n d0 d1 d2 d3 d4 d5) s = exec (.sxReasmPush (headWord 0x3 g 0x2 n d0.toNat d1.toNat) w2) s ∧
    exec (.ump3End g n d0 d1 d2 d3 d4 d5) s = exec (.sxReasmPush (headWord 0x3 g 0x3 n d0.toNat d1.toNat) w2) s

/-! ## Diagnostics -/

/-- R580: the two upper-case digits of each byte, the high one first, joined by the separator, one space when omitted; and
the length. -/
def Obligations.HexFormat : Prop :=
  ∀ (m : List Byte) (sep : Option (List Byte)) (s : State),
    let digit (v : Nat) : Byte := BitVec.ofNat 8 ("0123456789ABCDEF".toList.getD v '?').toNat
    let out := (sep.getD [0x20]).intercalate (m.map fun b => [digit (b.toNat / 16), digit (b.toNat % 16)])
    Answers (.hexFormat m sep) s (.ok (.bytes out)) ∧
      out.length = 2 * m.length + (sep.getD [0x20]).length * (m.length - 1)

/-! ## The whole machine -/

/-- An instruction without a side effect answers the same in every state and changes nothing but the response (R109, for the
commands; which wire forms have a side effect is the model's choice, assumptions 5 and 6). -/
def Obligations.PureCommandsSeeAndChangeNothing : Prop :=
  ∀ i : Instr, isPure i = true → i.wf = true → ∃ r, ∀ s : State, Answers i s r

/-- An instruction without a side effect commutes with every other: neither response changes, and the contexts end the same
(R113, for the commands; the wire forms are covered by the model's choice, assumptions 5 and 6). -/
def Obligations.PureCommandsCommute : Prop :=
  ∀ (i j : Instr) (s : State), isPure i = true → i.wf = true → j.wf = true →
    ∃ a ab b ba, exec i s = .next a ∧ exec j a = .next ab ∧ exec j s = .next b ∧ exec i b = .next ba ∧
      ab.response = b.response ∧ ba.response = a.response ∧ ab.seg = ba.seg ∧ ab.ra = ba.ra

/-- R705: the segmenter commands neither read nor write the reassembly contexts, and the reassembler commands neither read
nor write SEG; the MT 0x3 wire forms are reassembler commands here (assumption 6). -/
def Obligations.SegmenterAndReassemblerAreIndependent : Prop :=
  ∀ (i : Instr) (s s' : State), i.wf = true → s.pSxMax = s'.pSxMax →
    (effectOf i = .segmenter → s.seg = s'.seg →
      ∃ t t', exec i s = .next t ∧ exec i s' = .next t' ∧ t.response = t'.response ∧ t.seg = t'.seg ∧ t.ra = s.ra) ∧
    ((∃ g, effectOf i = .context g) ∨ effectOf i = .contexts → s.ra = s'.ra →
      ∃ t t', exec i s = .next t ∧ exec i s' = .next t' ∧ t.response = t'.response ∧ t.ra = t'.ra ∧ t.seg = s.seg)

/-- R608: an error writes no context but the reassembly context of the packet that met it, which it clears; an MT 0x3
wire form is such a packet too (assumption 6). -/
def Obligations.ErrorsWriteOnlyTheirContext : Prop :=
  ∀ (i : Instr) (s t : State) (k : ErrorKind), exec i s = .next t → t.response = some (.error k) →
    t.seg = s.seg ∧ t.port = s.port ∧ ∀ g, t.raOf g = s.raOf g ∨
      (effectOf i = .context g ∧ t.raOf g = { active := false, buf := [] })

/-- The status codes, and which error statuses each instruction can answer with; the others always answer OK, and
REFUSED_CAPACITY is answered only when `P_SX_MAX` is finite (R601 and R605, for the commands; a wire form has the errors of
the command it stands for by the model's choice, assumptions 5 and 6). -/
def Obligations.ErrorStatuses : Prop :=
  (∀ v, (Response.ok v).status = 0) ∧ (Response.error .rangeError).status = 1 ∧
  (Response.error .malformedWireData).status = 2 ∧ (Response.error .unsupportedProtocolCombination).status = 3 ∧
  (Response.error .refusedCapacity).status = 4 ∧
  ∀ (i : Instr) (s t : State), exec i s = .next t →
    ((∃ v, t.response = some (.ok v)) ∨ ∃ k ∈ errorsOf i, t.response = some (.error k)) ∧
      (t.response = some (.error .refusedCapacity) → s.pSxMax ≠ none)

/-- R708: bounds of the results the other statements do not give: SX_UNCHUNK gives at most six bytes a packet, a decoded SysEx
Event holds fewer data bytes than its input, and a reassembled message is within `P_SX_MAX`, that of an MT 0x3 wire form too
(assumption 6). -/
def Obligations.OutputBounds : Prop :=
  ∀ s t : State,
    (∀ ps d, Answers (.sxUnchunk ps) s (.ok (.data d)) → d.length ≤ 6 * ps.length) ∧
    (∀ m grp e, Answers (.m1FromBytes m grp) s (.ok (.event e)) → e.isSysEx = true → (frame e).length + 2 = m.length) ∧
    (∀ ws e, Answers (.umpFromWords ws) s (.ok (.event e)) → e.isSysEx = true → (frame e).length ≤ 3 * ws.length) ∧
    (s.Inv → step s = .next t → ∀ g d, t.response = some (.ok (.reasmOut (.message g d))) →
      withinBound s.pSxMax d.length)
end

