-- ==== Sys2Proof/Laws/Bits.lean ====
section
/-! SUPPORT. Reading back the bit fields that Machine/Bits.lean writes. -/

namespace Sys2Proof.Machine

/-! ## Nibbles of a byte -/

@[simp] theorem hi4_byteOf (h l : U4) : hi4 (byteOf h l) = h := by
  apply BitVec.eq_of_getLsbD_eq; intro i hi
  simp only [hi4, byteOf, BitVec.getLsbD_extractLsb', BitVec.getLsbD_append]
  simp [hi]

@[simp] theorem lo4_byteOf (h l : U4) : lo4 (byteOf h l) = l := by
  apply BitVec.eq_of_getLsbD_eq; intro i hi
  simp only [lo4, byteOf, BitVec.getLsbD_extractLsb', BitVec.getLsbD_append]
  simp [hi]

theorem byteOf_hi4_lo4 (b : Byte) : byteOf (hi4 b) (lo4 b) = b := by
  apply BitVec.eq_of_getLsbD_eq; intro i hi
  simp only [byteOf, hi4, lo4, BitVec.getLsbD_append, BitVec.getLsbD_extractLsb']
  by_cases h : i < 4
  · simp [h]
  · have : i - 4 < 4 := by omega
    simp [h, this]; congr 1; omega

theorem byteOf_toNat (h l : U4) : (byteOf h l).toNat = h.toNat * 16 + l.toNat := by
  have := l.isLt
  rw [byteOf, BitVec.toNat_append, ← Nat.shiftLeft_add_eq_or_of_lt this, Nat.shiftLeft_eq]

theorem hi4_toNat (b : Byte) : (hi4 b).toNat = b.toNat / 16 := by
  have := b.isLt
  simp [hi4, BitVec.extractLsb'_toNat, Nat.shiftRight_eq_div_pow]; omega

theorem lo4_toNat (b : Byte) : (lo4 b).toNat = b.toNat % 16 := by
  simp [lo4, BitVec.extractLsb'_toNat]

/-! ## Bytes of a word -/

@[simp] theorem byte0_word4 (a b c d : Byte) : byte0 (word4 a b c d) = a := by
  apply BitVec.eq_of_getLsbD_eq; intro i hi
  have h1 : ¬ (24 + i < 8) := by omega
  have h2 : ¬ (24 + i - 8 < 8) := by omega
  have h3 : ¬ (24 + i - 8 - 8 < 8) := by omega
  have h4 : 24 + i - 8 - 8 - 8 = i := by omega
  simp only [byte0, word4, BitVec.getLsbD_extractLsb', BitVec.getLsbD_append]
  simp [hi, h1, h2, h3, h4]

@[simp] theorem byte1_word4 (a b c d : Byte) : byte1 (word4 a b c d) = b := by
  apply BitVec.eq_of_getLsbD_eq; intro i hi
  have h1 : ¬ (16 + i < 8) := by omega
  have h2 : ¬ (16 + i - 8 < 8) := by omega
  have h4 : 16 + i - 8 - 8 = i := by omega
  simp only [byte1, word4, BitVec.getLsbD_extractLsb', BitVec.getLsbD_append]
  simp [hi, h1, h2, h4]

@[simp] theorem byte2_word4 (a b c d : Byte) : byte2 (word4 a b c d) = c := by
  apply BitVec.eq_of_getLsbD_eq; intro i hi
  have h1 : ¬ (8 + i < 8) := by omega
  have h4 : 8 + i - 8 = i := by omega
  simp only [byte2, word4, BitVec.getLsbD_extractLsb', BitVec.getLsbD_append]
  simp [hi, h1, h4]

@[simp] theorem byte3_word4 (a b c d : Byte) : byte3 (word4 a b c d) = d := by
  apply BitVec.eq_of_getLsbD_eq; intro i hi
  simp only [byte3, word4, BitVec.getLsbD_extractLsb', BitVec.getLsbD_append]
  simp [hi]

theorem word4_bytes (w : Word) : word4 (byte0 w) (byte1 w) (byte2 w) (byte3 w) = w := by
  apply BitVec.eq_of_getLsbD_eq; intro i hi
  simp only [word4, byte0, byte1, byte2, byte3, BitVec.getLsbD_append, BitVec.getLsbD_extractLsb']
  by_cases h : i < 8
  · simp [h]
  by_cases h1 : i - 8 < 8
  · simp [h, h1]; congr 1; omega
  by_cases h2 : i - 8 - 8 < 8
  · simp [h, h1, h2]; congr 1; omega
  · have h3 : i - 8 - 8 - 8 < 8 := by omega
    simp [h, h1, h2, h3]; congr 1; omega

/-! ## Halves of a word -/

@[simp] theorem hi16_word16 (a b : U16) : hi16 (word16 a b) = a := by
  apply BitVec.eq_of_getLsbD_eq; intro i hi
  simp only [hi16, word16, BitVec.getLsbD_extractLsb', BitVec.getLsbD_append]
  simp [hi]

@[simp] theorem lo16_word16 (a b : U16) : lo16 (word16 a b) = b := by
  apply BitVec.eq_of_getLsbD_eq; intro i hi
  simp only [lo16, word16, BitVec.getLsbD_extractLsb', BitVec.getLsbD_append]
  simp [hi]

theorem word16_halves (w : Word) : word16 (hi16 w) (lo16 w) = w := by
  apply BitVec.eq_of_getLsbD_eq; intro i hi
  simp only [word16, hi16, lo16, BitVec.getLsbD_append, BitVec.getLsbD_extractLsb']
  by_cases h : i < 16
  · simp [h]
  · have h1 : i - 16 < 16 := by omega
    simp [h, h1]; congr 1; omega

@[simp] theorem byte0_word16 (a b : Byte) (r : U16) : byte0 (word16 (a ++ b) r) = a := by
  apply BitVec.eq_of_getLsbD_eq; intro i hi
  have h1 : ¬ (24 + i < 16) := by omega
  have h2 : ¬ (24 + i - 16 < 8) := by omega
  have h3 : 24 + i - 16 - 8 = i := by omega
  simp only [byte0, word16, BitVec.getLsbD_extractLsb', BitVec.getLsbD_append]
  simp [hi, h1, h2, h3]

@[simp] theorem byte1_word16 (a b : Byte) (r : U16) : byte1 (word16 (a ++ b) r) = b := by
  apply BitVec.eq_of_getLsbD_eq; intro i hi
  have h1 : ¬ (16 + i < 16) := by omega
  have h3 : 16 + i - 16 = i := by omega
  simp only [byte1, word16, BitVec.getLsbD_extractLsb', BitVec.getLsbD_append]
  simp [hi, h1, h3]

/-! ## Bytes and words as numbers (R20, R21) -/

theorem word4_toNat (a b c d : Byte) :
    (word4 a b c d).toNat = a.toNat * 2 ^ 24 + b.toNat * 2 ^ 16 + c.toNat * 2 ^ 8 + d.toNat := by
  have ha := a.isLt; have hb := b.isLt; have hc := c.isLt; have hd := d.isLt
  rw [word4, BitVec.toNat_append, BitVec.toNat_append, BitVec.toNat_append, ← Nat.shiftLeft_add_eq_or_of_lt hd,
    ← Nat.shiftLeft_add_eq_or_of_lt hc, ← Nat.shiftLeft_add_eq_or_of_lt hb]
  simp only [Nat.shiftLeft_eq]; omega

theorem word16_toNat (a b : U16) : (word16 a b).toNat = a.toNat * 2 ^ 16 + b.toNat := by
  have hb := b.isLt
  rw [word16, BitVec.toNat_append, ← Nat.shiftLeft_add_eq_or_of_lt hb, Nat.shiftLeft_eq]

theorem headByte_toNat (t g : U4) : (headByte t g).toNat = t.toNat * 16 + g.toNat := byteOf_toNat t g

theorem byte0_toNat (w : Word) : (byte0 w).toNat = w.toNat / 2 ^ 24 := by
  have := w.isLt
  simp [byte0, BitVec.extractLsb'_toNat, Nat.shiftRight_eq_div_pow]; omega

theorem byte1_toNat (w : Word) : (byte1 w).toNat = w.toNat / 2 ^ 16 % 2 ^ 8 := by
  simp [byte1, BitVec.extractLsb'_toNat, Nat.shiftRight_eq_div_pow]

theorem byte2_toNat (w : Word) : (byte2 w).toNat = w.toNat / 2 ^ 8 % 2 ^ 8 := by
  simp [byte2, BitVec.extractLsb'_toNat, Nat.shiftRight_eq_div_pow]

theorem byte3_toNat (w : Word) : (byte3 w).toNat = w.toNat % 2 ^ 8 := by
  simp [byte3, BitVec.extractLsb'_toNat]

theorem hi16_toNat (w : Word) : (hi16 w).toNat = w.toNat / 2 ^ 16 := by
  have := w.isLt
  simp [hi16, BitVec.extractLsb'_toNat, Nat.shiftRight_eq_div_pow]; omega

theorem lo16_toNat (w : Word) : (lo16 w).toNat = w.toNat % 2 ^ 16 := by
  simp [lo16, BitVec.extractLsb'_toNat]

theorem msgType_toNat (w : Word) : (msgType w).toNat = w.toNat / 2 ^ 28 := by
  rw [msgType, hi4_toNat, byte0_toNat]; omega

theorem groupOf_toNat (w : Word) : (groupOf w).toNat = w.toNat / 2 ^ 24 % 16 := by
  rw [groupOf, lo4_toNat, byte0_toNat]

theorem statusOf_toNat (w : Word) : (statusOf w).toNat = w.toNat / 2 ^ 20 % 16 := by
  rw [statusOf, hi4_toNat, byte1_toNat]; omega

theorem channelOf_toNat (w : Word) : (channelOf w).toNat = w.toNat / 2 ^ 16 % 16 := by
  rw [channelOf, lo4_toNat, byte1_toNat]; omega

/-! ## Header fields -/

@[simp] theorem msgType_word4 (t g : U4) (b c d : Byte) : msgType (word4 (headByte t g) b c d) = t := by
  simp [msgType, headByte]

@[simp] theorem groupOf_word4 (t g : U4) (b c d : Byte) : groupOf (word4 (headByte t g) b c d) = g := by
  simp [groupOf, headByte]

@[simp] theorem statusOf_word4 (a : Byte) (s n : U4) (c d : Byte) : statusOf (word4 a (byteOf s n) c d) = s := by
  simp [statusOf]

@[simp] theorem channelOf_word4 (a : Byte) (s n : U4) (c d : Byte) : channelOf (word4 a (byteOf s n) c d) = n := by
  simp [channelOf]

@[simp] theorem msgType_word16 (t g : U4) (b : Byte) (r : U16) : msgType (word16 (headByte t g ++ b) r) = t := by
  simp [msgType, headByte]

@[simp] theorem groupOf_word16 (t g : U4) (b : Byte) (r : U16) : groupOf (word16 (headByte t g ++ b) r) = g := by
  simp [groupOf, headByte]

@[simp] theorem statusOf_word16 (a : Byte) (s n : U4) (r : U16) : statusOf (word16 (a ++ byteOf s n) r) = s := by
  simp [statusOf]

@[simp] theorem channelOf_word16 (a : Byte) (s n : U4) (r : U16) : channelOf (word16 (a ++ byteOf s n) r) = n := by
  simp [channelOf]

/-! ## 7-bit values in bytes -/

@[simp] theorem byte7_toNat (v : U7) : (byte7 v).toNat = v.toNat := by
  have := v.isLt
  simp only [byte7, BitVec.toNat_setWidth]; omega

@[simp] theorem is7_byte7 (v : U7) : is7 (byte7 v) = true := by
  have := v.isLt
  simp [is7]; omega

@[simp] theorem low7_byte7 (v : U7) : low7 (byte7 v) = v := by
  have := v.isLt
  apply BitVec.eq_of_toNat_eq
  simp [low7, BitVec.toNat_setWidth]; omega

theorem low7_toNat (b : Byte) (h : is7 b = true) : (low7 b).toNat = b.toNat := by
  simp [is7] at h
  simp [low7, BitVec.toNat_setWidth]; omega

theorem byte7_low7 (b : Byte) (h : is7 b = true) : byte7 (low7 b) = b := by
  apply BitVec.eq_of_toNat_eq
  rw [byte7_toNat, low7_toNat b h]

@[simp] theorem map_low7_byte7 (d : List U7) : (d.map byte7).map low7 = d := by
  simp [Function.comp_def]

theorem map_byte7_low7 (d : List Byte) (h : d.all is7 = true) : (d.map low7).map byte7 = d := by
  induction d with
  | nil => rfl
  | cons b d ih =>
    simp only [List.all_cons, Bool.and_eq_true] at h
    simp only [List.map_cons, byte7_low7 b h.1, ih h.2]

@[simp] theorem all_is7_byte7 (d : List U7) : (d.map byte7).all is7 = true := by simp

/-! ## Pitch bend -/

theorem bendJoin_split (v : Nat) (h : v < 2 ^ 14) : bendJoin (bendLsb v) (bendMsb v) = v := by
  simp only [bendJoin, bendLsb, bendMsb, BitVec.toNat_ofNat]; omega

theorem is7_bendLsb (v : Nat) : is7 (bendLsb v) = true := by
  simp only [is7, bendLsb, BitVec.toNat_ofNat]; rw [decide_eq_true_iff]; omega

theorem is7_bendMsb (v : Nat) (h : v < 2 ^ 14) : is7 (bendMsb v) = true := by
  simp only [is7, bendMsb, BitVec.toNat_ofNat]; rw [decide_eq_true_iff]; omega

end Sys2Proof.Machine
end

