-- ==== Sys2Proof/Laws/Decode.lean ====
section
/-! SUPPORT. Each type check of the command boundary accepts what the encoder writes and gives it back, and accepts nothing
that is not of its type. -/

namespace Sys2Proof

/-! ## Commands -/

@[simp] theorem Op.ofCode?_code (o : Op) : Op.ofCode? o.code = some o := by cases o <;> decide

theorem Op.ofCode?_eq_some {c : Byte} {o : Op} (h : Op.ofCode? c = some o) : o.code = c := by
  have := List.find?_some h
  simpa using this

/-! ## Operands -/

@[simp] theorem width?_bits (w : Width) : width? (.int w.bits) = some w := by cases w <;> decide

@[simp] theorem uInt?_num {n : Nat} (v : BitVec n) : uInt? n (num v) = some v := by
  have h : (0 : Int) ≤ num v ∧ num v < 2 ^ n := by
    refine ⟨Int.natCast_nonneg _, ?_⟩
    have := v.isLt
    simp only [num]; exact_mod_cast this
  rw [uInt?, if_pos h]
  simp [num]

@[simp] theorem uList?_map_num {n : Nat} (vs : List (BitVec n)) : uList? n (vs.map num) = some vs := by
  induction vs with
  | nil => rfl
  | cons v vs ih => simp [uList?, ih]

@[simp] theorem packetList?_map (ps : List Packet) :
    packetList? (ps.map fun p => (num p.w1, num p.w2)) = some ps := by
  induction ps with
  | nil => rfl
  | cons p ps ih => simp [packetList?, ih]

theorem bounded?_int (w : Width) (v : Nat) (h : w.fits v = true) : bounded? w (.int v) = some v := by
  have h' : v ≤ w.max := by simpa [Width.fits] using h
  simp [bounded?, h']

theorem validated?_validated (t : VType) (m : Nat) (h : t.m2Width.fits m = true) :
    validated? t (.validated t m) = some m := by
  have h' : m ≤ t.m2Width.max := by simpa [Width.fits] using h
  simp [validated?, h']

theorem event?_event (e : Event) (h : e.wf = true) : event? (.event e) = some e := by simp [event?, h]

theorem sysExEvent?_event (e : Event) (h : (e.wf && e.isSysEx) = true) : sysExEvent? (.event e) = some e := by
  simp only [sysExEvent?, h, if_true]

@[simp] theorem seq?_seqOperand {n : Nat} (vs : List (BitVec n)) : seq? n (seqOperand vs) = some vs := by
  simp [seq?, seqOperand]

@[simp] theorem group?_int (g : U4) : group? (.int (num g)) = some g := by simp [group?]

@[simp] theorem word?_int (w : Word) : word? (.int (num w)) = some w := by simp [word?]

@[simp] theorem optional?_bit (b : Option Bool) : optional? bit? (optOperand bitOperand b) = some b := by
  cases b with
  | none => rfl
  | some b => cases b <;> rfl

@[simp] theorem optional?_group (g : Option U4) :
    optional? group? (optOperand (fun g => .int (num g)) g) = some g := by
  cases g with
  | none => rfl
  | some g => simp [optional?, optOperand]

@[simp] theorem optional?_seq (s : Option (List Byte)) : optional? (seq? 8) (optOperand seqOperand s) = some s := by
  cases s with
  | none => rfl
  | some s =>
    have := seq?_seqOperand (n := 8) s
    simp only [seqOperand] at this
    simp only [optOperand, seqOperand, optional?, this, Option.map_some]

@[simp] theorem optional?_sel (r : Option ReasmSel) : optional? sel? (optOperand selOperand r) = some r := by
  cases r with
  | none => rfl
  | some r => cases r <;> simp [optional?, optOperand, selOperand, sel?]

/-! ## What a type check accepts has its type -/

theorem bounded?_fits {w : Width} {o : Operand} {v : Nat} (h : bounded? w o = some v) : w.fits v = true := by
  cases o <;> simp [bounded?] at h
  rw [Width.fits, decide_eq_true_iff]; omega

theorem validated?_fits {t : VType} {o : Operand} {v : Nat} (h : validated? t o = some v) : t.m2Width.fits v = true := by
  cases o <;> simp [validated?] at h
  rw [Width.fits, decide_eq_true_iff]; omega

theorem event?_wf {o : Operand} {e : Event} (h : event? o = some e) : e.wf = true := by
  cases o <;> simp [event?] at h
  rw [← h.2]; exact h.1

theorem sysExEvent?_wf {o : Operand} {e : Event} (h : sysExEvent? o = some e) : (e.wf && e.isSysEx) = true := by
  cases o <;> simp [sysExEvent?] at h
  rw [← h.2]; simpa using h.1

/-! ## The raw fields of EV_MAKE -/

@[simp] theorem rawNumber?_numberField (n : RawNumber) : rawNumber? (numberField n) = some n := by cases n <;> rfl

@[simp] theorem rawIntOpt?_intOptField (v : Option Int) : rawIntOpt? (intOptField v) = some v := by cases v <;> rfl

@[simp] theorem rawBank?_bankField (b : Option RawBank) : rawBank? (bankField b) = some b := by cases b <;> rfl

@[simp] theorem Kind.ofTag?_tag (k : Kind) : Kind.ofTag? k.tag = some k := by cases k <;> decide

@[simp] theorem rawEvent?_fields (r : RawEvent) : rawEvent? r.kind r.fields = some r := by
  cases r <;> simp [rawEvent?, RawEvent.kind, RawEvent.fields, Kind.fieldCount, rawField, rawNibble?, rawInt?, rawValue?,
    rawManufacturer?, rawUniversal?, rawData?]

@[simp] theorem evMake?_fields (r : RawEvent) : evMake? (.int r.kind.tag) (.fields r.fields) = some r := by
  simp [evMake?]

/-! ## Requests -/

/-- A request of a command decodes to what its operands decode to. -/
theorem decodeInput_request {op : Op} {os : List Operand} {i : Instr} (h : decodeOperands op os = some i) :
    decodeInput (request op os) = .ok i := by
  simp [decodeInput, request, decodeCommand, h]

end Sys2Proof
end

