-- ==== Sys2Proof/Laws/Rescale.lean ====
section
/-! SUPPORT. The rescale stays inside the resolution it rescales to, so that no field ever drops a bit of it. -/

namespace Sys2Proof.Machine

/-! ## Rounding -/

theorem rnd_le {a b c : Nat} (hb : 0 < b) (h : a ≤ c * b) : rnd a b ≤ c := by
  have h2 : 2 * a + b < (c + 1) * (2 * b) := by
    have : (c + 1) * (2 * b) = 2 * (c * b) + 2 * b := by ring
    omega
  exact Nat.lt_succ_iff.mp ((Nat.div_lt_iff_lt_mul (by omega)).mpr h2)

theorem rnd_mono {a a' : Nat} (b : Nat) (h : a ≤ a') : rnd a b ≤ rnd a' b :=
  Nat.div_le_div_right (by omega)

/-- An exact multiple is not rounded. -/
theorem rnd_mul (c : Nat) {b : Nat} (hb : 0 < b) : rnd (c * b) b = c := by
  have e : 2 * (c * b) + b = b + c * (2 * b) := by ring
  rw [rnd, e, Nat.add_mul_div_right _ _ (by omega : 0 < 2 * b), Nat.div_eq_of_lt (by omega), Nat.zero_add]

/-! ## Ranges -/

theorem widen_le {v n m : Nat} (hn : 0 < n) (h : v ≤ 2 ^ n - 1) : widen v n m ≤ 2 ^ m - 1 := by
  have : 1 < 2 ^ n := Nat.one_lt_two_pow (by omega)
  exact rnd_le (by omega) ((Nat.mul_le_mul_right _ h).trans_eq (Nat.mul_comm _ _))

theorem narrow_le {x m n : Nat} (hm : 0 < m) (h : x ≤ 2 ^ m - 1) : narrow x m n ≤ 2 ^ n - 1 := widen_le hm h

theorem widenC_le {v : Nat} (h : v ≤ 16383) : widenC v 14 32 ≤ 4294967295 := by
  have hr : rnd ((v - 8192) * 2147483647) 8191 ≤ 2147483647 :=
    rnd_le (by decide) (by omega)
  have e : widenC v 14 32 = if v ≤ 8192 then v * 262144 else 2147483648 + rnd ((v - 8192) * 2147483647) 8191 := by
    norm_num [widenC]
  rw [e]
  split <;> omega

/-- The magnitude of a non-centered value is the linear widening. -/
theorem magOfM1_linear {t : VType} (h : t.centered = false) (v : Nat) :
    magOfM1 t v = widen v t.m1Width.bits t.m2Width.bits := by
  simp [magOfM1, h]

theorem magOfM1_pbv (v : Nat) : magOfM1 .pbv v = widenC v 14 32 := by
  simp [magOfM1, VType.centered, VType.m1Width, VType.m2Width, Width.bits]

theorem magOfM1_le (t : VType) {v : Nat} (h : v ≤ t.m1Width.max) : magOfM1 t v ≤ t.m2Width.max := by
  cases ht : t.centered with
  | false =>
    rw [magOfM1_linear ht]
    exact widen_le (by cases t <;> decide) h
  | true =>
    cases t with
    | vel => cases ht
    | amt => cases ht
    | ccv => cases ht
    | pbv =>
      rw [magOfM1_pbv]
      simp only [VType.m1Width, VType.m2Width, Width.max, Width.bits] at *
      exact widenC_le h

theorem viewM1_le (t : VType) {x : Nat} (h : x ≤ t.m2Width.max) : viewM1 t x ≤ t.m1Width.max :=
  narrow_le (by cases t <;> decide) h

/-! ## Magnitudes of data bytes and data bytes of magnitudes -/

theorem is7_le {b : Byte} (h : is7 b = true) : b.toNat ≤ Width.w7.max := by
  simp only [is7, decide_eq_true_eq] at h
  simp only [Width.max, Width.bits]; omega

theorem u16_le (x : U16) : x.toNat ≤ Width.w16.max := Nat.le_sub_one_of_lt x.isLt

theorem u32_le (x : U32) : x.toNat ≤ Width.w32.max := Nat.le_sub_one_of_lt x.isLt

theorem velOfByte_toNat {b : Byte} (h : is7 b = true) : (velOfByte b).toNat = magOfM1 .vel b.toNat := by
  have : magOfM1 .vel b.toNat ≤ 2 ^ 16 - 1 := magOfM1_le .vel (is7_le h)
  rw [velOfByte, BitVec.toNat_ofNat, Nat.mod_eq_of_lt (by omega)]

theorem amtOfByte_toNat {b : Byte} (h : is7 b = true) : (amtOfByte b).toNat = magOfM1 .amt b.toNat := by
  have : magOfM1 .amt b.toNat ≤ 2 ^ 32 - 1 := magOfM1_le .amt (is7_le h)
  rw [amtOfByte, BitVec.toNat_ofNat, Nat.mod_eq_of_lt (by omega)]

theorem ccvOfByte_toNat {b : Byte} (h : is7 b = true) : (ccvOfByte b).toNat = magOfM1 .ccv b.toNat := by
  have : magOfM1 .ccv b.toNat ≤ 2 ^ 32 - 1 := magOfM1_le .ccv (is7_le h)
  rw [ccvOfByte, BitVec.toNat_ofNat, Nat.mod_eq_of_lt (by omega)]

theorem pbvOfM1_toNat {v : Nat} (h : v < 2 ^ 14) : (pbvOfM1 v).toNat = magOfM1 .pbv v := by
  have : magOfM1 .pbv v ≤ 2 ^ 32 - 1 := magOfM1_le .pbv (by simp only [VType.m1Width, Width.max, Width.bits]; omega)
  rw [pbvOfM1, BitVec.toNat_ofNat, Nat.mod_eq_of_lt (by omega)]

theorem velByte_toNat (x : U16) : (velByte x).toNat = viewM1 .vel x.toNat := by
  have : viewM1 .vel x.toNat ≤ 2 ^ 7 - 1 := viewM1_le .vel (u16_le x)
  rw [velByte, BitVec.toNat_ofNat, Nat.mod_eq_of_lt (by omega)]

theorem amtByte_toNat (x : U32) : (amtByte x).toNat = viewM1 .amt x.toNat := by
  have : viewM1 .amt x.toNat ≤ 2 ^ 7 - 1 := viewM1_le .amt (u32_le x)
  rw [amtByte, BitVec.toNat_ofNat, Nat.mod_eq_of_lt (by omega)]

theorem ccvByte_toNat (x : U32) : (ccvByte x).toNat = viewM1 .ccv x.toNat := by
  have : viewM1 .ccv x.toNat ≤ 2 ^ 7 - 1 := viewM1_le .ccv (u32_le x)
  rw [ccvByte, BitVec.toNat_ofNat, Nat.mod_eq_of_lt (by omega)]

theorem pbvM1_lt (x : U32) : pbvM1 x < 2 ^ 14 := by
  have : viewM1 .pbv x.toNat ≤ 2 ^ 14 - 1 := viewM1_le .pbv (u32_le x)
  simp only [pbvM1]; omega

/-- A narrowed value is a 7-bit data byte. -/
theorem is7_velByte (x : U16) : is7 (velByte x) = true := by
  have : viewM1 .vel x.toNat ≤ 2 ^ 7 - 1 := viewM1_le .vel (u16_le x)
  simp only [is7, velByte_toNat, decide_eq_true_eq]; omega

theorem is7_amtByte (x : U32) : is7 (amtByte x) = true := by
  have : viewM1 .amt x.toNat ≤ 2 ^ 7 - 1 := viewM1_le .amt (u32_le x)
  simp only [is7, amtByte_toNat, decide_eq_true_eq]; omega

theorem is7_ccvByte (x : U32) : is7 (ccvByte x) = true := by
  have : viewM1 .ccv x.toNat ≤ 2 ^ 7 - 1 := viewM1_le .ccv (u32_le x)
  simp only [is7, ccvByte_toNat, decide_eq_true_eq]; omega

end Sys2Proof.Machine
end

