-- ==== Sys2Proof/Laws/SysEx.lean ====
section
/-! SUPPORT. The packet a stride makes, read back field by field; the packets SX_CHUNK emits, by index; what SX_PARSE and
SX_UNCHUNK accept. -/

namespace Sys2Proof.Machine

/-! ## Packet statuses -/

@[simp] theorem PacketStatus.ofCode?_code (st : PacketStatus) : PacketStatus.ofCode? st.code = some st := by
  cases st <;> decide

theorem PacketStatus.ofCode?_eq_some {c : U4} {st : PacketStatus} (h : PacketStatus.ofCode? c = some st) :
    st.code = c := by
  revert h; revert st; revert c; decide

theorem PacketStatus.ofCode?_isSome (c : U4) : (PacketStatus.ofCode? c).isSome = decide (c.toNat ≤ 3) := by
  revert c; decide

/-! ## One packet -/

section packetOf

variable (g : U4) (st : PacketStatus) (b : List U7)

@[simp] theorem msgType_packetOf : msgType (packetOf g st b).w1 = 0x3#4 := by simp [packetOf]
@[simp] theorem groupOf_packetOf : groupOf (packetOf g st b).w1 = g := by simp [packetOf]
@[simp] theorem statusOf_packetOf : statusOf (packetOf g st b).w1 = st.code := by simp [packetOf]
@[simp] theorem packetStatus?_packetOf : packetStatus? (packetOf g st b) = some st := by simp [packetStatus?]

theorem countOf_packetOf (h : b.length ≤ 6) : countOf (packetOf g st b) = b.length := by
  simp [countOf, packetOf]; omega

/-- Every slot of a stride's packet: its byte, or zero fill. -/
theorem slots_packetOf :
    slots (packetOf g st b) = (List.range 6).map fun k => byte7 (b.getD k 0#7) := by
  simp [slots, packetOf, List.range_succ]

theorem countedSlots_packetOf (h : b.length ≤ 6) : countedSlots (packetOf g st b) = b.map byte7 := by
  rw [countedSlots, countOf_packetOf g st b h, slots_packetOf]
  apply List.ext_getElem
  · simp [h]
  · intro i h1 h2
    have hi : i < b.length := by simpa using h2
    simp [List.getD_eq_getElem?_getD, hi]

theorem packetBytes_packetOf (h : b.length ≤ 6) : packetBytes (packetOf g st b) = b := by
  rw [packetBytes, countedSlots_packetOf g st b h, map_low7_byte7]

theorem bodyValid_packetOf (h : b.length ≤ 6) : bodyValid (packetOf g st b) = true := by
  simp [bodyValid, countedSlots_packetOf g st b h, countOf_packetOf g st b h, h]

theorem packetValid_packetOf (h : b.length ≤ 6) : packetValid (packetOf g st b) = true := by
  simp [packetValid, bodyValid_packetOf g st b h]

end packetOf

/-! ## One stride -/

/-- The bytes of the stride at `pos`. -/
def strideBytes (d : List U7) (pos : Nat) : List U7 := (d.drop pos).take (min 6 (d.length - pos))

theorem stride_eq (d : List U7) (g : U4) (pos : Nat) :
    stride d g pos = packetOf g (strideStatus d.length pos) (strideBytes d pos) := rfl

theorem strideBytes_length (d : List U7) (pos : Nat) : (strideBytes d pos).length = min 6 (d.length - pos) := by
  simp [strideBytes]

theorem strideBytes_length_le (d : List U7) (pos : Nat) : (strideBytes d pos).length ≤ 6 := by
  rw [strideBytes_length]; omega

theorem strideBytes_eq_take (d : List U7) (pos : Nat) : strideBytes d pos = (d.drop pos).take 6 := by
  rw [strideBytes, ← List.length_drop]
  rcases Nat.le_total 6 (d.drop pos).length with h | h
  · rw [Nat.min_eq_left h]
  · rw [Nat.min_eq_right h, List.take_length, List.take_of_length_le h]

/-! ## The packets of SX_CHUNK -/

theorem chunkLoop_of_le (d : List U7) (g : U4) {fuel pos : Nat} (h : d.length ≤ pos) : chunkLoop d g fuel pos = [] := by
  cases fuel with
  | zero => rfl
  | succ f => simp [chunkLoop, Nat.not_lt.mpr h]

theorem chunkLoop_eq (d : List U7) (g : U4) (n : Nat) : ∀ fuel k, n = packetCount d.length - k → d.length ≤ 6 * k + fuel →
    chunkLoop d g fuel (6 * k) = (List.range' k n).map fun j => stride d g (6 * j) := by
  induction n with
  | zero =>
    intro fuel k hn _
    have : d.length ≤ 6 * k := by simp [packetCount, Config.packetCapacity] at hn; omega
    simp [chunkLoop_of_le d g this]
  | succ n ih =>
    intro fuel k hn hf
    have hk : 6 * k < d.length := by simp [packetCount, Config.packetCapacity] at hn; omega
    obtain ⟨f, rfl⟩ : ∃ f, fuel = f + 1 := ⟨fuel - 1, by omega⟩
    simp only [chunkLoop, hk, if_true, List.range'_succ, List.map_cons, Config.packetCapacity]
    congr 1
    rcases Nat.lt_or_ge (6 * (k + 1)) d.length with h | h
    · have e : 6 * k + min 6 (d.length - 6 * k) = 6 * (k + 1) := by omega
      rw [e]
      exact ih f (k + 1) (by omega) (by omega)
    · rw [chunkLoop_of_le d g (by omega)]
      have : n = 0 := by simp [packetCount, Config.packetCapacity] at hn; omega
      simp [this]

/-- Packet `k` of SX_CHUNK is the stride at position `6k`. -/
theorem chunk_eq (d : List U7) (g : U4) :
    chunk d g = (List.range (packetCount d.length)).map fun k => stride d g (6 * k) := by
  rw [List.range_eq_range']
  exact chunkLoop_eq d g _ d.length 0 (by omega) (by omega)

@[simp] theorem chunk_nil (g : U4) : chunk [] g = [] := rfl

theorem chunk_length (d : List U7) (g : U4) : (chunk d g).length = packetCount d.length := by simp [chunk_eq]

theorem mem_chunk {d : List U7} {g : U4} {p : Packet} (h : p ∈ chunk d g) :
    ∃ k, k < packetCount d.length ∧ p = stride d g (6 * k) := by
  rw [chunk_eq] at h
  obtain ⟨k, hk, rfl⟩ := List.mem_map.mp h
  exact ⟨k, List.mem_range.mp hk, rfl⟩

theorem chunk_valid {d : List U7} {g : U4} {p : Packet} (h : p ∈ chunk d g) :
    packetValid p = true ∧ groupOf p.w1 = g := by
  obtain ⟨k, -, rfl⟩ := mem_chunk h
  rw [stride_eq]
  exact ⟨packetValid_packetOf _ _ _ (strideBytes_length_le d _), groupOf_packetOf _ _ _⟩

/-! ## Framing -/

theorem frame_ne_nil {e : Event} (h : e.isSysEx = true) : frame e ≠ [] := by
  cases e <;> simp_all [Event.isSysEx, Event.kind, frame]
  rename_i m _
  cases m <;> simp [manufacturerBytes]

/-- SX_PARSE of 7-bit bytes is the parse of the values they hold. -/
theorem parse_byte7 (d : List U7) (g : U4) :
    parse (d.map byte7) g = match d with
      | [] => .error .malformedWireData
      | b :: rest => parseLead g b rest := by
  cases d with
  | nil => rfl
  | cons b rest => rw [parse, if_pos (all_is7_byte7 _), map_low7_byte7]

/-- SX_PARSE succeeds only on 7-bit bytes. -/
theorem parse_ok {d : List Byte} {g : U4} {e : Event} (h : parse d g = .ok e) :
    d.all is7 = true ∧ ∃ b rest, d.map low7 = b :: rest ∧ parseLead g b rest = .ok e := by
  unfold parse at h
  split at h
  · rename_i h7
    refine ⟨h7, ?_⟩
    split at h
    · cases h
    · exact ⟨_, _, by assumption, h⟩
  · cases h

/-! ## Unchunking -/

/-- The three checks of SX_UNCHUNK as one condition. -/
theorem unchunk_cons (p : Packet) (ps : List Packet) :
    unchunk (p :: ps) =
      if ((p :: ps).all packetValid && (p :: ps).all (fun q => groupOf q.w1 == groupOf p.w1) && statusesOk (p :: ps)) = true
      then .ok ((p :: ps).flatMap packetBytes) else .error .malformedWireData := by
  simp only [unchunk]
  cases (p :: ps).all packetValid <;> cases (p :: ps).all (fun q => groupOf q.w1 == groupOf p.w1) <;>
    cases statusesOk (p :: ps) <;> rfl

/-- What SX_UNCHUNK accepts, and what it gives. -/
theorem unchunk_ok_iff (ps : List Packet) (d : List U7) :
    unchunk ps = .ok d ↔
      ps.all packetValid = true ∧ (∀ p ∈ ps, ∀ q ∈ ps, groupOf p.w1 = groupOf q.w1) ∧ statusesOk ps = true ∧
        d = ps.flatMap packetBytes := by
  cases ps with
  | nil => simp [unchunk, statusesOk, eq_comm]
  | cons p ps =>
    have hg : ((p :: ps).all (fun q => groupOf q.w1 == groupOf p.w1) = true) ↔
        ∀ a ∈ p :: ps, ∀ b ∈ p :: ps, groupOf a.w1 = groupOf b.w1 := by
      simp only [List.all_eq_true, beq_iff_eq]
      constructor
      · intro h a ha b hb; rw [h a ha, h b hb]
      · intro h a ha; exact h a ha p (by simp)
    rw [← hg, unchunk_cons]
    split
    · rename_i h
      simp only [Bool.and_eq_true] at h
      constructor
      · intro e; cases e; exact ⟨h.1.1, h.1.2, h.2, rfl⟩
      · rintro ⟨-, -, -, rfl⟩; rfl
    · rename_i h
      simp only [Bool.and_eq_true] at h
      constructor
      · intro e; cases e
      · rintro ⟨h1, h2, h3, -⟩; exact absurd ⟨⟨h1, h2⟩, h3⟩ h

/-- SX_UNCHUNK gives the bytes of its packets or MALFORMED_WIRE_DATA. -/
theorem unchunk_cases (ps : List Packet) :
    unchunk ps = .ok (ps.flatMap packetBytes) ∨ unchunk ps = .error .malformedWireData := by
  cases ps with
  | nil => exact .inl rfl
  | cons p ps =>
    rw [unchunk_cons]
    split
    · exact .inl rfl
    · exact .inr rfl

end Sys2Proof.Machine
end

