-- ==== Sys2Proof/Laws/Wire.lean ====
section
/-! SUPPORT. The first byte or the header of a message selects the decoder of its form, and a decoder's 7-bit checks. -/

namespace Sys2Proof.Machine

/-! ## 7-bit checks -/

theorem with7_ok {d1 : Byte} (e : Event) (h : is7 d1 = true) : with7 d1 e = .ok e := by simp [with7, h]

theorem with7_bad {d1 : Byte} (e : Event) (h : is7 d1 = false) : with7 d1 e = .error .malformedWireData := by
  simp [with7, h]

theorem with7x2_ok {d1 d2 : Byte} (e : Event) (h1 : is7 d1 = true) (h2 : is7 d2 = true) : with7x2 d1 d2 e = .ok e := by
  simp [with7x2, h1, h2]

theorem with7x2_bad {d1 d2 : Byte} (e : Event) (h : is7 d1 = false ∨ is7 d2 = false) :
    with7x2 d1 d2 e = .error .malformedWireData := by
  rcases h with h | h <;> simp [with7x2, h]

/-! ## MIDI 1.0 messages -/

theorem isChannel3_byteOf (s c : U4) :
    isChannel3 (byteOf s c) = decide ((0x8 ≤ s.toNat ∧ s.toNat ≤ 0xB) ∨ s.toNat = 0xE) := by
  have := c.isLt
  simp only [isChannel3, byteOf_toNat, ← Bool.decide_or, decide_eq_decide]
  omega

theorem isChannel2_byteOf (s c : U4) : isChannel2 (byteOf s c) = decide (0xC ≤ s.toNat ∧ s.toNat ≤ 0xD) := by
  have := c.isLt
  simp only [isChannel2, byteOf_toNat, decide_eq_decide]
  omega

theorem fromBytes_noteOff (g c : U4) (d1 d2 : Byte) :
    fromBytes [byteOf 0x8 c, d1, d2] g = noteOffOfBytes g c d1 d2 := by
  simp [fromBytes, isChannel3_byteOf, channel3OfBytes]

theorem fromBytes_noteOn (g c : U4) (d1 d2 : Byte) :
    fromBytes [byteOf 0x9 c, d1, d2] g = noteOnOfBytes g c d1 d2 := by
  simp [fromBytes, isChannel3_byteOf, channel3OfBytes]

theorem fromBytes_polyPressure (g c : U4) (d1 d2 : Byte) :
    fromBytes [byteOf 0xA c, d1, d2] g = polyPressureOfBytes g c d1 d2 := by
  simp [fromBytes, isChannel3_byteOf, channel3OfBytes]

theorem fromBytes_controlChange (g c : U4) (d1 d2 : Byte) :
    fromBytes [byteOf 0xB c, d1, d2] g = controlChangeOfBytes g c d1 d2 := by
  simp [fromBytes, isChannel3_byteOf, channel3OfBytes]

theorem fromBytes_pitchBend (g c : U4) (d1 d2 : Byte) :
    fromBytes [byteOf 0xE c, d1, d2] g = pitchBendOfBytes g c d1 d2 := by
  simp [fromBytes, isChannel3_byteOf, channel3OfBytes]

theorem fromBytes_programChange (g c : U4) (d1 : Byte) : fromBytes [byteOf 0xC c, d1] g = programChangeOfBytes g c d1 := by
  simp [fromBytes, isChannel3_byteOf, isChannel2_byteOf, channel2OfBytes]

theorem fromBytes_channelPressure (g c : U4) (d1 : Byte) : fromBytes [byteOf 0xD c, d1] g = channelPressureOfBytes g c d1 := by
  simp [fromBytes, isChannel3_byteOf, isChannel2_byteOf, channel2OfBytes]

theorem fromBytes_tuneRequest (g : U4) : fromBytes [0xF6#8] g = tuneRequestOfBytes g := by
  simp [fromBytes, isChannel3, isChannel2]

theorem fromBytes_sysex (g : U4) (rest : List Byte) : fromBytes (0xF0#8 :: rest) g = sysexOfBytes g rest := by
  simp [fromBytes, isChannel3, isChannel2]

/-- What stands between the two framing bytes is parsed. -/
theorem sysexOfBytes_framed (g : U4) (d : List Byte) (h : d.all is7 = true) : sysexOfBytes g (d ++ [0xF7#8]) = parse d g := by
  rw [sysexOfBytes, if_pos (by simp), List.dropLast_concat, if_pos h]

/-! ## UMP messages -/

theorem fromWords_mt2NoteOff (g c : U4) (b1 b2 : Byte) :
    fromWords [word4 (headByte 0x2 g) (byteOf 0x8 c) b1 b2] = mt2NoteOff g c b1 b2 := by
  simp [fromWords, mt2OfWord]

theorem fromWords_mt2NoteOn (g c : U4) (b1 b2 : Byte) :
    fromWords [word4 (headByte 0x2 g) (byteOf 0x9 c) b1 b2] = mt2NoteOn g c b1 b2 := by
  simp [fromWords, mt2OfWord]

theorem fromWords_mt2PolyPressure (g c : U4) (b1 b2 : Byte) :
    fromWords [word4 (headByte 0x2 g) (byteOf 0xA c) b1 b2] = mt2PolyPressure g c b1 b2 := by
  simp [fromWords, mt2OfWord]

theorem fromWords_mt2ControlChange (g c : U4) (b1 b2 : Byte) :
    fromWords [word4 (headByte 0x2 g) (byteOf 0xB c) b1 b2] = mt2ControlChange g c b1 b2 := by
  simp [fromWords, mt2OfWord]

theorem fromWords_mt2ProgramChange (g c : U4) (b1 b2 : Byte) :
    fromWords [word4 (headByte 0x2 g) (byteOf 0xC c) b1 b2] = mt2ProgramChange g c b1 b2 := by
  simp [fromWords, mt2OfWord]

theorem fromWords_mt2ChannelPressure (g c : U4) (b1 b2 : Byte) :
    fromWords [word4 (headByte 0x2 g) (byteOf 0xD c) b1 b2] = mt2ChannelPressure g c b1 b2 := by
  simp [fromWords, mt2OfWord]

theorem fromWords_mt2PitchBend (g c : U4) (b1 b2 : Byte) :
    fromWords [word4 (headByte 0x2 g) (byteOf 0xE c) b1 b2] = mt2PitchBend g c b1 b2 := by
  simp [fromWords, mt2OfWord]

theorem fromWords_mt1TuneRequest (g : U4) (r : U16) :
    fromWords [word16 (headByte 0x1 g ++ 0xF6#8) r] = mt1TuneRequest g r := by
  simp [fromWords, mt1OfWord]

theorem fromWords_mt4PncRegistered (g c : U4) (note index : Byte) (value : U32) :
    fromWords [word4 (headByte 0x4 g) (byteOf 0x0 c) note index, value] = mt4PncRegistered g c note index value := by
  simp [fromWords, mt4OfWords]

theorem fromWords_mt4PncAssignable (g c : U4) (note index : Byte) (value : U32) :
    fromWords [word4 (headByte 0x4 g) (byteOf 0x1 c) note index, value] = mt4PncAssignable g c note index value := by
  simp [fromWords, mt4OfWords]

theorem fromWords_mt4NoteOff (g c : U4) (note aty : Byte) (vel ad : U16) :
    fromWords [word4 (headByte 0x4 g) (byteOf 0x8 c) note aty, word16 vel ad] = mt4NoteOff g c note aty vel ad := by
  simp [fromWords, mt4OfWords]

theorem fromWords_mt4NoteOn (g c : U4) (note aty : Byte) (vel ad : U16) :
    fromWords [word4 (headByte 0x4 g) (byteOf 0x9 c) note aty, word16 vel ad] = mt4NoteOn g c note aty vel ad := by
  simp [fromWords, mt4OfWords]

theorem fromWords_mt4PolyPressure (g c : U4) (note r : Byte) (amount : U32) :
    fromWords [word4 (headByte 0x4 g) (byteOf 0xA c) note r, amount] = mt4PolyPressure g c note r amount := by
  simp [fromWords, mt4OfWords]

theorem fromWords_mt4ControlChange (g c : U4) (controller r : Byte) (value : U32) :
    fromWords [word4 (headByte 0x4 g) (byteOf 0xB c) controller r, value] = mt4ControlChange g c controller r value := by
  simp [fromWords, mt4OfWords]

theorem fromWords_mt4ProgramChange (g c : U4) (r o p r2 m l : Byte) :
    fromWords [word4 (headByte 0x4 g) (byteOf 0xC c) r o, word4 p r2 m l] = mt4ProgramChange g c r o p r2 m l := by
  simp [fromWords, mt4OfWords]

theorem fromWords_mt4ChannelPressure (g c : U4) (r : U16) (amount : U32) :
    fromWords [word16 (headByte 0x4 g ++ byteOf 0xD c) r, amount] = mt4ChannelPressure g c r amount := by
  simp [fromWords, mt4OfWords]

theorem fromWords_mt4PitchBend (g c : U4) (r : U16) (value : U32) :
    fromWords [word16 (headByte 0x4 g ++ byteOf 0xE c) r, value] = mt4PitchBend g c r value := by
  simp [fromWords, mt4OfWords]

/-! ## Packets and words -/

@[simp] theorem pairWords_flattenPackets (ps : List Packet) : pairWords (flattenPackets ps) = ps := by
  induction ps with
  | nil => rfl
  | cons p ps ih => simpa [flattenPackets, pairWords] using ih

@[simp] theorem flattenPackets_length (ps : List Packet) : (flattenPackets ps).length = 2 * ps.length := by
  induction ps with
  | nil => rfl
  | cons p ps ih => simp only [flattenPackets, List.flatMap_cons, List.length_append] at *; simp [ih]; omega

/-- MT 0x3 words are decoded as packets of the first word's group. -/
theorem fromWords_flattenPackets {p : Packet} {ps : List Packet} (h : msgType p.w1 = 0x3#4) :
    fromWords (flattenPackets (p :: ps)) = sysexOfPackets (p :: ps) (groupOf p.w1) := by
  have hl : (flattenPackets (p :: ps)).length % 2 = 0 := by simp
  have hp := pairWords_flattenPackets (p :: ps)
  simp only [flattenPackets, List.flatMap_cons, List.cons_append, List.nil_append] at *
  simp only [fromWords, h, hl, hp]
  rfl

end Sys2Proof.Machine
end

