-- ==== Sys2Proof/Laws/Errors.lean ====
section
/-! SUPPORT. Each computation fails with one error status only, the one its rule names. -/

namespace Sys2Proof.Machine

/-! ## RangeError -/

theorem inRange_error {w : Width} {r : Int} {k : ErrorKind} (h : inRange w r = .error k) : k = .rangeError := by
  unfold inRange at h
  split at h
  · cases h; rfl
  · cases h

/-! ## MalformedWireData -/

theorem with7_error {b : Byte} {e : Event} {k : ErrorKind} (h : with7 b e = .error k) : k = .malformedWireData := by
  unfold with7 at h
  split at h
  · cases h
  · cases h; rfl

theorem with7x2_error {b c : Byte} {e : Event} {k : ErrorKind} (h : with7x2 b c e = .error k) : k = .malformedWireData := by
  unfold with7x2 at h
  split at h
  · cases h
  · cases h; rfl

theorem parseLead_error {g : U4} {b : U7} {rest : List U7} {k : ErrorKind} (h : parseLead g b rest = .error k) :
    k = .malformedWireData := by
  unfold parseLead at h
  repeat' split at h
  all_goals first | (cases h; done) | (cases h; rfl)

theorem parse_error {d : List Byte} {g : U4} {k : ErrorKind} (h : parse d g = .error k) : k = .malformedWireData := by
  unfold parse at h
  repeat' split at h
  all_goals first | exact parseLead_error h | (cases h; rfl)

theorem sysexOfBytes_error {g : U4} {rest : List Byte} {k : ErrorKind} (h : sysexOfBytes g rest = .error k) :
    k = .malformedWireData := by
  unfold sysexOfBytes at h
  repeat' split at h
  all_goals first | exact parse_error h | (cases h; rfl)

theorem fromBytes_error {m : List Byte} {g : U4} {k : ErrorKind} (h : fromBytes m g = .error k) :
    k = .malformedWireData := by
  unfold fromBytes channel3OfBytes channel2OfBytes at h
  repeat' split at h
  all_goals first
    | exact with7x2_error h | exact with7_error h | exact sysexOfBytes_error h | (cases h; done) | (cases h; rfl)

theorem unchunk_error {ps : List Packet} {k : ErrorKind} (h : unchunk ps = .error k) : k = .malformedWireData := by
  rcases unchunk_cases ps with e | e <;> rw [e] at h <;> cases h
  rfl

theorem sysexOfPackets_error {ps : List Packet} {g : U4} {k : ErrorKind} (h : sysexOfPackets ps g = .error k) :
    k = .malformedWireData := by
  unfold sysexOfPackets at h
  split at h
  · cases hu : unchunk ps with
    | error k' => rw [hu] at h; cases h; exact unchunk_error hu
    | ok d => rw [hu] at h; exact parse_error h
  · cases h; rfl

theorem mt4ProgramChange_error {g c : U4} {r o p r2 m l : Byte} {k : ErrorKind}
    (h : mt4ProgramChange g c r o p r2 m l = .error k) : k = .malformedWireData := by
  unfold mt4ProgramChange at h
  repeat' split at h
  all_goals first | exact with7_error h | (cases h; done) | (cases h; rfl)

theorem fromWords_error {ws : List Word} {k : ErrorKind} (h : fromWords ws = .error k) : k = .malformedWireData := by
  unfold fromWords mt1OfWord mt2OfWord mt4OfWords at h
  repeat' split at h
  all_goals first
    | exact with7x2_error h | exact with7_error h | exact sysexOfPackets_error h | exact mt4ProgramChange_error h | (cases h; done) | (cases h; rfl)

/-! ## UnsupportedProtocolCombination -/

theorem toBytes_error {e : Event} {a b : Bool} {k : ErrorKind} (h : toBytes e a b = .error k) :
    k = .unsupportedProtocolCombination := by
  cases e <;> simp only [toBytes, noteOffBytes, noteOnBytes, programChangeBytes] at h <;> (repeat' split at h) <;>
    first | (cases h; done) | (cases h; rfl)

theorem toWords_error {e : Event} {p : Protocol} {k : ErrorKind} (h : toWords e p = .error k) :
    k = .unsupportedProtocolCombination := by
  cases e <;> cases p <;>
    simp only [toWords, noteOffWord, noteOnWord, programChangeWord, programChangeWords] at h <;> (repeat' split at h) <;>
    first | (cases h; done) | (cases h; rfl)

end Sys2Proof.Machine
end

