-- ==== Sys2Proof/Laws/State.lean ====
section
/-! SUPPORT. What each update of State leaves in each field, and reading a reassembly context back. -/

namespace Sys2Proof.Machine

/-! ## withResponse -/

@[simp] theorem State.withResponse_seg (s : State) (r : Response) : (s.withResponse r).seg = s.seg := rfl
@[simp] theorem State.withResponse_ra (s : State) (r : Response) : (s.withResponse r).ra = s.ra := rfl
@[simp] theorem State.withResponse_port (s : State) (r : Response) : (s.withResponse r).port = s.port := rfl
@[simp] theorem State.withResponse_response (s : State) (r : Response) : (s.withResponse r).response = some r := rfl
@[simp] theorem State.withResponse_pSxMax (s : State) (r : Response) : (s.withResponse r).pSxMax = s.pSxMax := rfl

/-! ## withPort -/

@[simp] theorem State.withPort_seg (s : State) (p : List Input) : (s.withPort p).seg = s.seg := rfl
@[simp] theorem State.withPort_ra (s : State) (p : List Input) : (s.withPort p).ra = s.ra := rfl
@[simp] theorem State.withPort_port (s : State) (p : List Input) : (s.withPort p).port = p := rfl
@[simp] theorem State.withPort_response (s : State) (p : List Input) : (s.withPort p).response = s.response := rfl
@[simp] theorem State.withPort_pSxMax (s : State) (p : List Input) : (s.withPort p).pSxMax = s.pSxMax := rfl

/-! ## setSeg -/

@[simp] theorem State.setSeg_seg (s : State) (c : SegContext) : (s.setSeg c).seg = c := rfl
@[simp] theorem State.setSeg_ra (s : State) (c : SegContext) : (s.setSeg c).ra = s.ra := rfl
@[simp] theorem State.setSeg_port (s : State) (c : SegContext) : (s.setSeg c).port = s.port := rfl
@[simp] theorem State.setSeg_response (s : State) (c : SegContext) : (s.setSeg c).response = s.response := rfl
@[simp] theorem State.setSeg_pSxMax (s : State) (c : SegContext) : (s.setSeg c).pSxMax = s.pSxMax := rfl

/-! ## setRa -/

@[simp] theorem State.setRa_seg (s : State) (g : U4) (c : ReasmContext) : (s.setRa g c).seg = s.seg := rfl
@[simp] theorem State.setRa_ra (s : State) (g : U4) (c : ReasmContext) : (s.setRa g c).ra = s.ra.set g.toNat c g.isLt := rfl
@[simp] theorem State.setRa_port (s : State) (g : U4) (c : ReasmContext) : (s.setRa g c).port = s.port := rfl
@[simp] theorem State.setRa_response (s : State) (g : U4) (c : ReasmContext) : (s.setRa g c).response = s.response := rfl
@[simp] theorem State.setRa_pSxMax (s : State) (g : U4) (c : ReasmContext) : (s.setRa g c).pSxMax = s.pSxMax := rfl

/-! ## clearRa -/

@[simp] theorem State.clearRa_seg (s : State) (g : U4) : (s.clearRa g).seg = s.seg := rfl
@[simp] theorem State.clearRa_ra (s : State) (g : U4) : (s.clearRa g).ra = s.ra.set g.toNat ReasmContext.idle g.isLt := rfl
@[simp] theorem State.clearRa_port (s : State) (g : U4) : (s.clearRa g).port = s.port := rfl
@[simp] theorem State.clearRa_response (s : State) (g : U4) : (s.clearRa g).response = s.response := rfl
@[simp] theorem State.clearRa_pSxMax (s : State) (g : U4) : (s.clearRa g).pSxMax = s.pSxMax := rfl

/-! ## clearAllRa -/

@[simp] theorem State.clearAllRa_seg (s : State) : (s.clearAllRa).seg = s.seg := rfl
@[simp] theorem State.clearAllRa_ra (s : State) : (s.clearAllRa).ra = idleContexts := rfl
@[simp] theorem State.clearAllRa_port (s : State) : (s.clearAllRa).port = s.port := rfl
@[simp] theorem State.clearAllRa_response (s : State) : (s.clearAllRa).response = s.response := rfl
@[simp] theorem State.clearAllRa_pSxMax (s : State) : (s.clearAllRa).pSxMax = s.pSxMax := rfl

/-! ## reset -/

@[simp] theorem State.reset_seg : State.reset.seg = SegContext.idle := rfl
@[simp] theorem State.reset_ra : State.reset.ra = idleContexts := rfl
@[simp] theorem State.reset_port : State.reset.port = [] := rfl
@[simp] theorem State.reset_response : State.reset.response = none := rfl
@[simp] theorem State.reset_pSxMax : State.reset.pSxMax = none := rfl

/-! ## Reassembly contexts -/

theorem State.raOf_congr {s t : State} (h : s.ra = t.ra) (g : U4) : s.raOf g = t.raOf g := by
  simp only [State.raOf, h]

@[simp] theorem State.raOf_withResponse (s : State) (r : Response) (g : U4) : (s.withResponse r).raOf g = s.raOf g := rfl
@[simp] theorem State.raOf_withPort (s : State) (p : List Input) (g : U4) : (s.withPort p).raOf g = s.raOf g := rfl
@[simp] theorem State.raOf_setSeg (s : State) (c : SegContext) (g : U4) : (s.setSeg c).raOf g = s.raOf g := rfl

@[simp] theorem State.raOf_setRa_same (s : State) (g : U4) (c : ReasmContext) : (s.setRa g c).raOf g = c := by
  simp [State.raOf, State.setRa]

theorem State.raOf_setRa_ne (s : State) {g g' : U4} (c : ReasmContext) (h : g' ≠ g) :
    (s.setRa g c).raOf g' = s.raOf g' := by
  have hne : g.toNat ≠ g'.toNat := fun e => h (BitVec.eq_of_toNat_eq e.symm)
  simp [State.raOf, State.setRa, Vector.getElem_set_ne _ _ hne]

@[simp] theorem State.raOf_clearRa_same (s : State) (g : U4) : (s.clearRa g).raOf g = ReasmContext.idle :=
  State.raOf_setRa_same s g _

theorem State.raOf_clearRa_ne (s : State) {g g' : U4} (h : g' ≠ g) : (s.clearRa g).raOf g' = s.raOf g' :=
  State.raOf_setRa_ne s _ h

@[simp] theorem State.raOf_clearAllRa (s : State) (g : U4) : s.clearAllRa.raOf g = ReasmContext.idle := by
  simp [State.raOf, State.clearAllRa, idleContexts]

@[simp] theorem State.raOf_reset (g : U4) : State.reset.raOf g = ReasmContext.idle := by
  simp [State.raOf, State.reset, idleContexts]

/-- The sixteen contexts are determined by reading each of them. -/
theorem State.ra_ext {s t : State} (h : ∀ g, s.raOf g = t.raOf g) : s.ra = t.ra := by
  apply Vector.ext
  intro i hi
  have := h (BitVec.ofNat 4 i)
  have hi' : (BitVec.ofNat 4 i).toNat = i := by
    simp only [BitVec.toNat_ofNat]; exact Nat.mod_eq_of_lt hi
  simpa only [State.raOf, hi'] using this

/-! ## Capacity -/

@[simp] theorem State.withinCapacity_withResponse (s : State) (r : Response) (n : Nat) :
    (s.withResponse r).withinCapacity n = s.withinCapacity n := rfl
@[simp] theorem State.withinCapacity_withPort (s : State) (p : List Input) (n : Nat) :
    (s.withPort p).withinCapacity n = s.withinCapacity n := rfl
@[simp] theorem State.withinCapacity_setSeg (s : State) (c : SegContext) (n : Nat) :
    (s.setSeg c).withinCapacity n = s.withinCapacity n := rfl
@[simp] theorem State.withinCapacity_setRa (s : State) (g : U4) (c : ReasmContext) (n : Nat) :
    (s.setRa g c).withinCapacity n = s.withinCapacity n := rfl

theorem State.withinCapacity_congr {s t : State} (h : s.pSxMax = t.pSxMax) (n : Nat) :
    s.withinCapacity n = t.withinCapacity n := by
  simp only [State.withinCapacity, h]

theorem State.withinCapacity_mono (s : State) {m n : Nat} (h : m ≤ n) (hn : s.withinCapacity n = true) :
    s.withinCapacity m = true := by
  unfold State.withinCapacity at *
  split at hn <;> simp_all
  omega

@[simp] theorem State.withinCapacity_reset (n : Nat) : State.reset.withinCapacity n = true := rfl

end Sys2Proof.Machine
end

