-- ==== Sys2Proof/Laws/Ops.lean ====
section
/-! SUPPORT. Everything the shared operations can do: a command ends with one response and the contexts it wrote, or is
refused at the command boundary. -/

namespace Sys2Proof.Machine

/-- The response that a computed result or error ends a command with. -/
def responseOf (x : Except ErrorKind Result) : Response :=
  match x with
  | .ok v => .ok v
  | .error k => .error k

@[simp] theorem responseOf_ok (v : Result) : responseOf (.ok v) = .ok v := rfl
@[simp] theorem responseOf_error (k : ErrorKind) : responseOf (.error k) = .error k := rfl

/-- `answer` ends in the next state whose only change is the response. -/
theorem answer_eq (s : State) (x : Except ErrorKind Result) : answer s x = .next (s.withResponse (responseOf x)) := by
  cases x <;> rfl

theorem respond_eq (s : State) (r : Response) : respond s r = .next (s.withResponse r) := rfl
theorem returnOk_eq (s : State) (v : Result) : returnOk s v = .next (s.withResponse (.ok v)) := rfl
theorem raise_eq (s : State) (k : ErrorKind) : raise s k = .next (s.withResponse (.error k)) := rfl

/-- A well-typed request goes on. -/
theorem atBoundary_typed {op : Byte} {typed : Bool} (a : Answer) (h : typed = true) : atBoundary op typed a = a := by
  simp [atBoundary, h]

/-- An ill-typed request is refused by name. -/
theorem atBoundary_illTyped {op : Byte} {typed : Bool} (a : Answer) (h : typed = false) :
    atBoundary op typed a = .refused (.boundary (.illTyped op)) := by
  simp [atBoundary, h]

/-- If the boundary lets an answer through, it is that answer. -/
theorem atBoundary_next {op : Byte} {typed : Bool} {a : Answer} {t : State} (h : atBoundary op typed a = .next t) :
    typed = true ∧ a = .next t := by
  cases typed
  · simp [atBoundary] at h
  · exact ⟨rfl, by simpa [atBoundary] using h⟩

theorem next_inj {s t : State} (h : (Host.Outcome.next s : Answer) = .next t) : s = t := by
  cases h; rfl

@[simp] theorem withResponse_withResponse (s : State) (q r : Response) :
    (s.withResponse q).withResponse r = s.withResponse r := rfl

end Sys2Proof.Machine
end

