-- ==== Sys2Proof/Laws/PerInstr.lean ====
section
/-! SUPPORT. For each instruction: decoding its encoding gives it back, with every operand it was well formed with. -/

namespace Sys2Proof.Laws.RoundTrip

open Sys2Proof Sys2Proof.Machine

/-- The round trip of one instruction through the encoder and the decoder (30_encoding.md R130 to R177). -/
def Statement (i : Instr) : Prop := i.wf = true → decodeInput (encode i) = .ok i

theorem biFail (w : Width) (v : Int) : Statement (.biFail w v) := fun _ =>
  decodeInput_request (by simp [decodeOperands, Op.arity, arg, int?])

theorem biExact (w : Width) (v : Int) : Statement (.biExact w v) := fun _ =>
  decodeInput_request (by simp [decodeOperands, Op.arity, arg, int?])

theorem biClamp (w : Width) (v : Int) : Statement (.biClamp w v) := fun _ =>
  decodeInput_request (by simp [decodeOperands, Op.arity, arg, int?])

theorem biTrunc (w : Width) (v : Int) : Statement (.biTrunc w v) := fun _ =>
  decodeInput_request (by simp [decodeOperands, Op.arity, arg, int?])

theorem biAdd (w : Width) (a b : Nat) : Statement (.biAdd w a b) := by
  intro h
  simp only [Instr.wf, Bool.and_eq_true] at h
  exact decodeInput_request (by simp [decodeOperands, Op.arity, arg, bounded?_int, h.1, h.2])

theorem biSub (w : Width) (a b : Nat) : Statement (.biSub w a b) := by
  intro h
  simp only [Instr.wf, Bool.and_eq_true] at h
  exact decodeInput_request (by simp [decodeOperands, Op.arity, arg, bounded?_int, h.1, h.2])

theorem biMul (w : Width) (a b : Nat) : Statement (.biMul w a b) := by
  intro h
  simp only [Instr.wf, Bool.and_eq_true] at h
  exact decodeInput_request (by simp [decodeOperands, Op.arity, arg, bounded?_int, h.1, h.2])

theorem biDiv (w : Width) (a b : Nat) : Statement (.biDiv w a b) := by
  intro h
  simp only [Instr.wf, Bool.and_eq_true] at h
  exact decodeInput_request (by simp [decodeOperands, Op.arity, arg, bounded?_int, h.1, h.2])

theorem biRem (w : Width) (a b : Nat) : Statement (.biRem w a b) := by
  intro h
  simp only [Instr.wf, Bool.and_eq_true] at h
  exact decodeInput_request (by simp [decodeOperands, Op.arity, arg, bounded?_int, h.1, h.2])

theorem biCmp (w : Width) (a b : Nat) : Statement (.biCmp w a b) := by
  intro h
  simp only [Instr.wf, Bool.and_eq_true] at h
  exact decodeInput_request (by simp [decodeOperands, Op.arity, arg, bounded?_int, h.1, h.2])

theorem vvFromM1 (t : VType) (v : Nat) : Statement (.vvFromM1 t v) := by
  intro h
  simp only [Instr.wf] at h
  exact decodeInput_request (by simp [decodeOperands, Op.arity, arg, vtype?, bounded?_int, h])

theorem vvFromM2 (t : VType) (x : Nat) : Statement (.vvFromM2 t x) := by
  intro h
  simp only [Instr.wf] at h
  exact decodeInput_request (by simp [decodeOperands, Op.arity, arg, vtype?, bounded?_int, h])

theorem vvViewM1 (t : VType) (mag : Nat) : Statement (.vvViewM1 t mag) := by
  intro h
  simp only [Instr.wf] at h
  exact decodeInput_request (by simp [decodeOperands, Op.arity, arg, vtype?, validated?_validated, h])

theorem vvViewM2 (t : VType) (mag : Nat) : Statement (.vvViewM2 t mag) := by
  intro h
  simp only [Instr.wf] at h
  exact decodeInput_request (by simp [decodeOperands, Op.arity, arg, vtype?, validated?_validated, h])

theorem evMake (raw : RawEvent) : Statement (.evMake raw) := fun _ =>
  decodeInput_request (by simp [decodeOperands, Op.arity, arg])

theorem m1ToBytes (e : Event) (incStart incEnd : Option Bool) : Statement (.m1ToBytes e incStart incEnd) := by
  intro h
  simp only [Instr.wf] at h
  exact decodeInput_request (by simp [decodeOperands, Op.arity, arg, event?_event, h])

theorem m1FromBytes (s : List Byte) (group : Option U4) : Statement (.m1FromBytes s group) := fun _ =>
  decodeInput_request (by simp [decodeOperands, Op.arity, arg])

theorem umpToWords (e : Event) (p : Protocol) : Statement (.umpToWords e p) := by
  intro h
  simp only [Instr.wf] at h
  exact decodeInput_request (by simp [decodeOperands, Op.arity, arg, event?_event, protocol?, h])

theorem umpFromWords (ws : List Word) : Statement (.umpFromWords ws) := fun _ =>
  decodeInput_request (by simp [decodeOperands, Op.arity, arg])

theorem sxFrame (e : Event) : Statement (.sxFrame e) := by
  intro h
  simp only [Instr.wf] at h
  exact decodeInput_request (by simp only [decodeOperands, arg]; simp [Op.arity, sysExEvent?_event e h])

theorem sxParse (d : List Byte) (group : U4) : Statement (.sxParse d group) := fun _ =>
  decodeInput_request (by simp [decodeOperands, Op.arity, arg])

theorem sxChunk (d : List U7) (group : U4) : Statement (.sxChunk d group) := fun _ =>
  decodeInput_request (by simp [decodeOperands, Op.arity, arg])

theorem sxUnchunk (ps : List Packet) : Statement (.sxUnchunk ps) := fun _ =>
  decodeInput_request (by simp [decodeOperands, Op.arity, arg, packets?])

theorem sxSegLoad (d : List U7) (group : U4) : Statement (.sxSegLoad d group) := fun _ =>
  decodeInput_request (by simp [decodeOperands, Op.arity, arg])

theorem sxSegNext : Statement (.sxSegNext) := fun _ =>
  decodeInput_request (by simp [decodeOperands, Op.arity])

theorem sxReasmPush (w1 w2 : Word) : Statement (.sxReasmPush w1 w2) := fun _ =>
  decodeInput_request (by simp [decodeOperands, Op.arity, arg])

theorem sxReasmReset (sel : Option ReasmSel) : Statement (.sxReasmReset sel) := fun _ =>
  decodeInput_request (by simp [decodeOperands, Op.arity, arg])

theorem hexFormat (s : List Byte) (sep : Option (List Byte)) : Statement (.hexFormat s sep) := fun _ =>
  decodeInput_request (by simp [decodeOperands, Op.arity, arg])

theorem reset : Statement (.reset) := fun _ =>
  decodeInput_request (by simp [decodeOperands, Op.arity])

theorem m1NoteOff (group : Option U4) (channel : U4) (note velocity : Byte) : Statement (.m1NoteOff group channel note velocity) := fun _ => by
  simp [decodeInput, encode, decodeMidi1]

theorem m1NoteOn (group : Option U4) (channel : U4) (note velocity : Byte) : Statement (.m1NoteOn group channel note velocity) := fun _ => by
  simp [decodeInput, encode, decodeMidi1]

theorem m1PolyPressure (group : Option U4) (channel : U4) (note amount : Byte) : Statement (.m1PolyPressure group channel note amount) := fun _ => by
  simp [decodeInput, encode, decodeMidi1]

theorem m1ControlChange (group : Option U4) (channel : U4) (controller value : Byte) : Statement (.m1ControlChange group channel controller value) := fun _ => by
  simp [decodeInput, encode, decodeMidi1]

theorem m1ProgramChange (group : Option U4) (channel : U4) (program : Byte) : Statement (.m1ProgramChange group channel program) := fun _ => by
  simp [decodeInput, encode, decodeMidi1]

theorem m1ChannelPressure (group : Option U4) (channel : U4) (amount : Byte) : Statement (.m1ChannelPressure group channel amount) := fun _ => by
  simp [decodeInput, encode, decodeMidi1]

theorem m1PitchBend (group : Option U4) (channel : U4) (lsb msb : Byte) : Statement (.m1PitchBend group channel lsb msb) := fun _ => by
  simp [decodeInput, encode, decodeMidi1]

theorem m1TuneRequest (group : Option U4) : Statement (.m1TuneRequest group) := fun _ => by
  simp [decodeInput, encode, decodeMidi1]

theorem m1Sysex (group : Option U4) (rest : List Byte) : Statement (.m1Sysex group rest) := fun _ => by
  match rest with
  | [] => rfl
  | [_] => rfl
  | [_, _] => rfl
  | _ :: _ :: _ :: _ => rfl

theorem ump1TuneRequest (group : U4) (reserved : U16) : Statement (.ump1TuneRequest group reserved) := fun _ => by
  simp [decodeInput, encode, decodeUmp]

theorem ump2NoteOff (group channel : U4) (note velocity : Byte) : Statement (.ump2NoteOff group channel note velocity) := fun _ => by
  simp [decodeInput, encode, decodeUmp]

theorem ump2NoteOn (group channel : U4) (note velocity : Byte) : Statement (.ump2NoteOn group channel note velocity) := fun _ => by
  simp [decodeInput, encode, decodeUmp]

theorem ump2PolyPressure (group channel : U4) (note amount : Byte) : Statement (.ump2PolyPressure group channel note amount) := fun _ => by
  simp [decodeInput, encode, decodeUmp]

theorem ump2ControlChange (group channel : U4) (controller value : Byte) : Statement (.ump2ControlChange group channel controller value) := fun _ => by
  simp [decodeInput, encode, decodeUmp]

theorem ump2ProgramChange (group channel : U4) (program reserved : Byte) : Statement (.ump2ProgramChange group channel program reserved) := fun _ => by
  simp [decodeInput, encode, decodeUmp]

theorem ump2ChannelPressure (group channel : U4) (amount reserved : Byte) : Statement (.ump2ChannelPressure group channel amount reserved) := fun _ => by
  simp [decodeInput, encode, decodeUmp]

theorem ump2PitchBend (group channel : U4) (lsb msb : Byte) : Statement (.ump2PitchBend group channel lsb msb) := fun _ => by
  simp [decodeInput, encode, decodeUmp]

theorem ump4PncRegistered (group channel : U4) (note index : Byte) (value : U32) : Statement (.ump4PncRegistered group channel note index value) := fun _ => by
  simp [decodeInput, encode, decodeUmp]

theorem ump4PncAssignable (group channel : U4) (note index : Byte) (value : U32) : Statement (.ump4PncAssignable group channel note index value) := fun _ => by
  simp [decodeInput, encode, decodeUmp]

theorem ump4NoteOff (group channel : U4) (note attrType : Byte) (velocity attrData : U16) : Statement (.ump4NoteOff group channel note attrType velocity attrData) := fun _ => by
  simp [decodeInput, encode, decodeUmp]

theorem ump4NoteOn (group channel : U4) (note attrType : Byte) (velocity attrData : U16) : Statement (.ump4NoteOn group channel note attrType velocity attrData) := fun _ => by
  simp [decodeInput, encode, decodeUmp]

theorem ump4PolyPressure (group channel : U4) (note reserved : Byte) (amount : U32) : Statement (.ump4PolyPressure group channel note reserved amount) := fun _ => by
  simp [decodeInput, encode, decodeUmp]

theorem ump4ControlChange (group channel : U4) (controller reserved : Byte) (value : U32) : Statement (.ump4ControlChange group channel controller reserved value) := fun _ => by
  simp [decodeInput, encode, decodeUmp]

theorem ump4ProgramChange (group channel : U4) (reserved options program reserved2 bankMsb bankLsb : Byte) : Statement (.ump4ProgramChange group channel reserved options program reserved2 bankMsb bankLsb) := fun _ => by
  simp [decodeInput, encode, decodeUmp]

theorem ump4ChannelPressure (group channel : U4) (reserved : U16) (amount : U32) : Statement (.ump4ChannelPressure group channel reserved amount) := fun _ => by
  simp [decodeInput, encode, decodeUmp]

theorem ump4PitchBend (group channel : U4) (reserved : U16) (value : U32) : Statement (.ump4PitchBend group channel reserved value) := fun _ => by
  simp [decodeInput, encode, decodeUmp]

theorem ump3Complete (group count : U4) (d0 d1 d2 d3 d4 d5 : Byte) : Statement (.ump3Complete group count d0 d1 d2 d3 d4 d5) := fun _ => by
  simp [decodeInput, encode, decodeUmp, mt3Words]

theorem ump3Start (group count : U4) (d0 d1 d2 d3 d4 d5 : Byte) : Statement (.ump3Start group count d0 d1 d2 d3 d4 d5) := fun _ => by
  simp [decodeInput, encode, decodeUmp, mt3Words]

theorem ump3Continue (group count : U4) (d0 d1 d2 d3 d4 d5 : Byte) : Statement (.ump3Continue group count d0 d1 d2 d3 d4 d5) := fun _ => by
  simp [decodeInput, encode, decodeUmp, mt3Words]

theorem ump3End (group count : U4) (d0 d1 d2 d3 d4 d5 : Byte) : Statement (.ump3End group count d0 d1 d2 d3 d4 d5) := fun _ => by
  simp [decodeInput, encode, decodeUmp, mt3Words]

end Sys2Proof.Laws.RoundTrip
end

