-- ==== Sys2Proof/Laws/Stream.lean ====
section
/-! SUPPORT. Everything one packet can do to the reassembler, and what the segmenter's two updates leave. -/

namespace Sys2Proof.Machine

/-! ## The segmenter -/

theorem segLoaded_nil (g : U4) : segLoaded [] g = SegContext.idle := rfl

theorem segLoaded_of_ne {d : List U7} (g : U4) (h : d ≠ []) :
    segLoaded d g = { active := true, data := d, len := d.length, pos := 0, group := g } := by
  simp [segLoaded, h]

theorem segAdvanced_last {c : SegContext} (h : c.pos + min 6 (c.len - c.pos) = c.len) : segAdvanced c = SegContext.idle := by
  simp [segAdvanced, h]

theorem segAdvanced_more {c : SegContext} (h : c.pos + min 6 (c.len - c.pos) ≠ c.len) :
    segAdvanced c = { c with pos := c.pos + min 6 (c.len - c.pos) } := by
  simp [segAdvanced, h]

theorem execSxSegNext_active {s : State} (h : s.seg.active = true) :
    execSxSegNext s = .next ((s.setSeg (segAdvanced s.seg)).withResponse
      (.ok (.segOut (.packet (stride s.seg.data s.seg.group s.seg.pos))))) := by
  simp [execSxSegNext, h, returnOk_eq]

theorem execSxSegNext_idle {s : State} (h : s.seg.active = false) :
    execSxSegNext s = .next (s.withResponse (.ok (.segOut .done))) := by
  simp [execSxSegNext, h, returnOk_eq]

theorem execSxSegLoad_within {s : State} {d : List U7} (g : U4) (h : s.withinCapacity d.length = true) :
    execSxSegLoad d g s = .next ((s.setSeg (segLoaded d g)).withResponse (.ok .none)) := by
  simp [execSxSegLoad, h, returnOk_eq]

theorem execSxSegLoad_beyond {s : State} {d : List U7} (g : U4) (h : s.withinCapacity d.length = false) :
    execSxSegLoad d g s = .next (s.withResponse (.error .refusedCapacity)) := by
  simp [execSxSegLoad, h, raise_eq]

/-! ## The reassembler -/

/-- A packet of another message type changes nothing. -/
theorem pushPacket_otherType {s : State} {p : Packet} (h : msgType p.w1 ≠ 0x3#4) :
    pushPacket s p = .next (s.withResponse (.error .malformedWireData)) := by
  simp [pushPacket, h, raise_eq]

/-- An invalid MT 0x3 packet clears its context. -/
theorem pushPacket_invalid {s : State} {p : Packet} (h : msgType p.w1 = 0x3#4) (hb : bodyValid p = false) :
    pushPacket s p = .next ((s.clearRa (groupOf p.w1)).withResponse (.error .malformedWireData)) := by
  unfold pushPacket
  rw [if_neg (by simp [h])]
  cases packetStatus? p <;> simp [hb, raise_eq]

/-- A valid packet is judged by its status and its context. -/
theorem pushPacket_valid {s : State} {p : Packet} {st : PacketStatus} (h : packetValid p = true)
    (hs : packetStatus? p = some st) : pushPacket s p = pushValid s (groupOf p.w1) st (packetBytes p) := by
  simp only [packetValid, Bool.and_eq_true, decide_eq_true_eq] at h
  simp [pushPacket, h.1, h.2, hs]

theorem packetValid_status {p : Packet} (h : packetValid p = true) : ∃ st, packetStatus? p = some st := by
  simp only [packetValid, bodyValid, Bool.and_eq_true] at h
  exact Option.isSome_iff_exists.mp h.2.1.1

section pushValid

variable {s : State} {g : U4} (b : List U7)

theorem pushValid_idle_complete (h : (s.raOf g).active = false) :
    pushValid s g .complete b = .next (s.withResponse (.ok (.reasmOut (.message g b)))) := by
  simp [pushValid, h, returnOk_eq]

theorem pushValid_idle_start (h : (s.raOf g).active = false) :
    pushValid s g .start b =
      .next ((s.setRa g { active := true, buf := b }).withResponse (.ok (.reasmOut .none))) := by
  simp [pushValid, h, returnOk_eq]

theorem pushValid_idle_cont (h : (s.raOf g).active = false) :
    pushValid s g .cont b = .next (s.withResponse (.error .malformedWireData)) := by
  simp [pushValid, h, raise_eq]

theorem pushValid_idle_fin (h : (s.raOf g).active = false) :
    pushValid s g .fin b = .next (s.withResponse (.error .malformedWireData)) := by
  simp [pushValid, h, raise_eq]

theorem pushValid_active_cont (h : (s.raOf g).active = true)
    (hc : s.withinCapacity ((s.raOf g).buf.length + b.length) = true) :
    pushValid s g .cont b =
      .next ((s.setRa g { active := true, buf := (s.raOf g).buf ++ b }).withResponse (.ok (.reasmOut .none))) := by
  simp [pushValid, h, appendWithin, hc, returnOk_eq]

theorem pushValid_active_fin (h : (s.raOf g).active = true)
    (hc : s.withinCapacity ((s.raOf g).buf.length + b.length) = true) :
    pushValid s g .fin b =
      .next ((s.clearRa g).withResponse (.ok (.reasmOut (.message g ((s.raOf g).buf ++ b))))) := by
  simp [pushValid, h, appendWithin, hc, returnOk_eq]

theorem pushValid_active_beyond {st : PacketStatus} (h : (s.raOf g).active = true) (hst : st = .cont ∨ st = .fin)
    (hc : s.withinCapacity ((s.raOf g).buf.length + b.length) = false) :
    pushValid s g st b = .next ((s.clearRa g).withResponse (.error .refusedCapacity)) := by
  rcases hst with rfl | rfl <;> simp [pushValid, h, appendWithin, hc, raise_eq]

theorem pushValid_active_start (h : (s.raOf g).active = true) :
    pushValid s g .start b = .next ((s.clearRa g).withResponse (.error .malformedWireData)) := by
  simp [pushValid, h, raise_eq]

theorem pushValid_active_complete (h : (s.raOf g).active = true) :
    pushValid s g .complete b = .next ((s.clearRa g).withResponse (.error .malformedWireData)) := by
  simp [pushValid, h, raise_eq]

end pushValid

/-- One packet ends in one response and touches at most the context of its group. -/
theorem pushPacket_next (s : State) (p : Packet) :
    ∃ r, pushPacket s p = .next (s.withResponse r) ∨
      (msgType p.w1 = 0x3#4 ∧ ∃ c, pushPacket s p = .next ((s.setRa (groupOf p.w1) c).withResponse r)) := by
  by_cases h : msgType p.w1 = 0x3#4
  · cases hb : bodyValid p with
    | false => exact ⟨_, .inr ⟨h, _, pushPacket_invalid h hb⟩⟩
    | true =>
      have hv : packetValid p = true := by simp [packetValid, h, hb]
      obtain ⟨st, hst⟩ := packetValid_status hv
      rw [pushPacket_valid hv hst]
      cases ha : (s.raOf (groupOf p.w1)).active with
      | false =>
        cases st with
        | complete => exact ⟨_, .inl (pushValid_idle_complete _ ha)⟩
        | start => exact ⟨_, .inr ⟨h, _, pushValid_idle_start _ ha⟩⟩
        | cont => exact ⟨_, .inl (pushValid_idle_cont _ ha)⟩
        | fin => exact ⟨_, .inl (pushValid_idle_fin _ ha)⟩
      | true =>
        cases hc : s.withinCapacity ((s.raOf (groupOf p.w1)).buf.length + (packetBytes p).length) with
        | true =>
          cases st with
          | complete => exact ⟨_, .inr ⟨h, _, pushValid_active_complete _ ha⟩⟩
          | start => exact ⟨_, .inr ⟨h, _, pushValid_active_start _ ha⟩⟩
          | cont => exact ⟨_, .inr ⟨h, _, pushValid_active_cont _ ha hc⟩⟩
          | fin => exact ⟨_, .inr ⟨h, _, pushValid_active_fin _ ha hc⟩⟩
        | false =>
          cases st with
          | complete => exact ⟨_, .inr ⟨h, _, pushValid_active_complete _ ha⟩⟩
          | start => exact ⟨_, .inr ⟨h, _, pushValid_active_start _ ha⟩⟩
          | cont => exact ⟨_, .inr ⟨h, _, pushValid_active_beyond _ ha (.inl rfl) hc⟩⟩
          | fin => exact ⟨_, .inr ⟨h, _, pushValid_active_beyond _ ha (.inr rfl) hc⟩⟩
  · exact ⟨_, .inl (pushPacket_otherType h)⟩

/-! ## The packet of an MT 0x3 wire form -/

section mt3Packet

variable (g : U4) (st : PacketStatus) (n : U4) (d0 d1 d2 d3 d4 d5 : Byte)

@[simp] theorem msgType_mt3Packet : msgType (mt3Packet g st n d0 d1 d2 d3 d4 d5).w1 = 0x3#4 := by simp [mt3Packet]
@[simp] theorem groupOf_mt3Packet : groupOf (mt3Packet g st n d0 d1 d2 d3 d4 d5).w1 = g := by simp [mt3Packet]
@[simp] theorem packetStatus?_mt3Packet : packetStatus? (mt3Packet g st n d0 d1 d2 d3 d4 d5) = some st := by
  simp [mt3Packet, packetStatus?]
@[simp] theorem countOf_mt3Packet : countOf (mt3Packet g st n d0 d1 d2 d3 d4 d5) = n.toNat := by simp [mt3Packet, countOf]
@[simp] theorem slots_mt3Packet : slots (mt3Packet g st n d0 d1 d2 d3 d4 d5) = [d0, d1, d2, d3, d4, d5] := by
  simp [mt3Packet, slots]

end mt3Packet

end Sys2Proof.Machine
end

