-- ==== Sys2Proof/Laws/Step.lean ====
section
/-! SUPPORT. Everything one step can do: nothing, when nothing is presented; a refusal by name; or the execution of the
decoded instruction. -/

namespace Sys2Proof.Machine

theorem step_idle {s : State} (h : s.port = []) : step s = .next s := by simp [step, h]

theorem step_refused {s : State} {input : Input} {rest : List Input} {r : Rejection} (h : s.port = input :: rest)
    (hd : decodeInput input = .error r) : step s = .refused (.boundary r) := by simp [step, h, hd]

theorem step_exec {s : State} {input : Input} {rest : List Input} {i : Instr} (h : s.port = input :: rest)
    (hd : decodeInput input = .ok i) : step s = exec i (s.withPort rest) := by simp [step, h, hd]

/-- A step that ends in a next state was idle or executed a decoded instruction. -/
theorem step_next {s t : State} (h : step s = .next t) :
    (s.port = [] ∧ t = s) ∨
      ∃ input rest i, s.port = input :: rest ∧ decodeInput input = .ok i ∧ exec i (s.withPort rest) = .next t := by
  cases hp : s.port with
  | nil =>
    rw [step_idle hp] at h
    exact .inl ⟨rfl, (next_inj h).symm⟩
  | cons input rest =>
    cases hd : decodeInput input with
    | error r => rw [step_refused hp hd] at h; cases h
    | ok i => rw [step_exec hp hd] at h; exact .inr ⟨input, rest, i, rfl, hd, h⟩

end Sys2Proof.Machine
end

