-- ==== Sys2Proof/Laws/Safety.lean ====
section
/-! SUPPORT. The terms of Safety.lean are what the machine computes: the wire layouts in arithmetic are its bit operations, a
packet's numeric fields are its bit fields, and an instruction that ends by a shared operation answers in their sense. -/

namespace Sys2Proof.Machine

/-! ## Capacity -/

theorem withinCapacity_iff (s : State) (n : Nat) : s.withinCapacity n = true ↔ withinBound s.pSxMax n := by
  unfold State.withinCapacity withinBound
  cases s.pSxMax <;> simp

theorem withinCapacity_eq_false (s : State) (n : Nat) : s.withinCapacity n = false ↔ ¬ withinBound s.pSxMax n := by
  rw [← withinCapacity_iff]; simp

theorem withinBound_mono {b : Option Nat} {m n : Nat} (h : m ≤ n) (hn : withinBound b n) : withinBound b m :=
  fun x hx => h.trans (hn x hx)

/-! ## Widths -/

theorem fits_iff (w : Width) (v : Nat) : w.fits v = true ↔ v ≤ 2 ^ w.bits - 1 := by
  rw [Width.fits, Width.max, decide_eq_true_iff]

theorem fits_eq_false (w : Width) (v : Nat) : w.fits v = false ↔ ¬ v ≤ 2 ^ w.bits - 1 := by
  rw [← fits_iff]; simp

/-! ## Ends of an instruction -/

theorem answers_of_answer {i : Instr} {s : State} {x : Except ErrorKind Result} (h : exec i s = answer s x) :
    Answers i s (responseOf x) := by
  rw [Answers, h, answer_eq]; rfl

theorem answers_of_boundary {i : Instr} {s : State} {op : Byte} {typed : Bool} {x : Except ErrorKind Result}
    (h : exec i s = atBoundary op typed (answer s x)) (ht : typed = true) : Answers i s (responseOf x) :=
  answers_of_answer (h.trans (atBoundary_typed _ ht))

theorem answers_unique {i : Instr} {s : State} {r r' : Response} (h : Answers i s r) (h' : Answers i s r') : r = r' := by
  have := next_inj (h.symm.trans h')
  simpa using congrArg State.response this

theorem writesRa_of_setRa {i : Instr} {s : State} {g : U4} {c : ReasmContext} {r : Response}
    (h : exec i s = .next ((s.setRa g c).withResponse r)) : WritesRa i s g c r :=
  ⟨_, h, rfl, by simp, fun h' hne => by simp [State.raOf_setRa_ne s c hne], rfl, rfl, rfl⟩

theorem writesRa_of_clearRa {i : Instr} {s : State} {g : U4} {r : Response}
    (h : exec i s = .next ((s.clearRa g).withResponse r)) : WritesRa i s g { active := false, buf := [] } r :=
  writesRa_of_setRa h

/-! ## Wire layouts -/

theorem statusByte_eq (n : U4) (c : U4) : statusByte n.toNat c = byteOf n c := by
  have h1 := n.isLt; have h2 := c.isLt
  apply BitVec.eq_of_toNat_eq
  rw [byteOf_toNat, statusByte, BitVec.toNat_ofNat, Nat.mod_eq_of_lt (by omega)]
  omega

theorem dataByte_toNat {v : Nat} (h : v < 256) : (dataByte v).toNat = v := by
  rw [dataByte, BitVec.toNat_ofNat, Nat.mod_eq_of_lt h]

theorem dataByte_u7 (v : U7) : dataByte v.toNat = byte7 v := by
  have := v.isLt
  apply BitVec.eq_of_toNat_eq
  rw [dataByte_toNat (by omega), byte7_toNat]

@[simp] theorem map_dataByte (d : List U7) : d.map (fun x => dataByte x.toNat) = d.map byte7 := by
  simp only [dataByte_u7]

theorem headWord_eq (mt g st c : U4) (f1 f2 : Byte) :
    headWord mt.toNat g st.toNat c f1.toNat f2.toNat = word4 (headByte mt g) (byteOf st c) f1 f2 := by
  have h0 := mt.isLt; have h1 := g.isLt; have h2 := st.isLt; have h3 := c.isLt; have h4 := f1.isLt; have h5 := f2.isLt
  apply BitVec.eq_of_toNat_eq
  rw [word4_toNat, headByte_toNat, byteOf_toNat, headWord, BitVec.toNat_ofNat, Nat.mod_eq_of_lt (by omega)]
  omega

theorem pairWord_eq (a b : U16) : pairWord a.toNat b.toNat = word16 a b := by
  have h0 := a.isLt; have h1 := b.isLt
  apply BitVec.eq_of_toNat_eq
  rw [word16_toNat, pairWord, BitVec.toNat_ofNat, Nat.mod_eq_of_lt (by omega)]

theorem bytesWord_eq (a b c d : Byte) : bytesWord a.toNat b.toNat c.toNat d.toNat = word4 a b c d := by
  have h0 := a.isLt; have h1 := b.isLt; have h2 := c.isLt; have h3 := d.isLt
  apply BitVec.eq_of_toNat_eq
  rw [word4_toNat, bytesWord, BitVec.toNat_ofNat, Nat.mod_eq_of_lt (by omega)]

/-- The low sixteen bits of a word are its two low bytes. -/
theorem word4_eq_word16 (a b c d : Byte) : word4 a b c d = word16 (a ++ b) (c ++ d) := by
  simp only [word4, word16]
  rw [BitVec.append_assoc]; rfl

/-! ## Data bytes in plain arithmetic -/

theorem is7_iff (b : Byte) : is7 b = true ↔ b.toNat < 0x80 := by simp [is7]
theorem is7_eq_false (b : Byte) : is7 b = false ↔ 0x80 ≤ b.toNat := by simp [is7]

theorem ofNat_toNat_low7 (b : Byte) : BitVec.ofNat 7 b.toNat = low7 b := by
  apply BitVec.eq_of_toNat_eq; simp [low7]

theorem velOfByte_eq (b : Byte) : velOfByte b = BitVec.ofNat 16 (widen b.toNat 7 16) := by
  rw [velOfByte, magOfM1_linear rfl]; simp only [VType.m1Width, VType.m2Width, Width.bits]

theorem amtOfByte_eq (b : Byte) : amtOfByte b = BitVec.ofNat 32 (widen b.toNat 7 32) := by
  rw [amtOfByte, magOfM1_linear rfl]; simp only [VType.m1Width, VType.m2Width, Width.bits]

theorem ccvOfByte_eq (b : Byte) : ccvOfByte b = BitVec.ofNat 32 (widen b.toNat 7 32) := by
  rw [ccvOfByte, magOfM1_linear rfl]; simp only [VType.m1Width, VType.m2Width, Width.bits]

theorem pbvOfM1_eq (v : Nat) : pbvOfM1 v = BitVec.ofNat 32 (widenC v 14 32) := by rw [pbvOfM1, magOfM1_pbv]

theorem velByte_eq (x : U16) : velByte x = dataByte (narrow x.toNat 16 7) := by
  simp only [velByte, viewM1, dataByte, VType.m1Width, VType.m2Width, Width.bits]

theorem amtByte_eq (x : U32) : amtByte x = dataByte (narrow x.toNat 32 7) := by
  simp only [amtByte, viewM1, dataByte, VType.m1Width, VType.m2Width, Width.bits]

theorem ccvByte_eq (x : U32) : ccvByte x = dataByte (narrow x.toNat 32 7) := by
  simp only [ccvByte, viewM1, dataByte, VType.m1Width, VType.m2Width, Width.bits]

theorem pbvM1_eq (x : U32) : pbvM1 x = narrow x.toNat 32 14 := by
  simp only [pbvM1, viewM1, VType.m1Width, VType.m2Width, Width.bits]

/-- Two instructions that end by equal computations answer the same. -/
theorem answers_same {i j : Instr} {s : State} {x y : Except ErrorKind Result} (hi : exec i s = answer s x)
    (hj : exec j s = answer s y) (h : x = y) : ∃ r, Answers i s r ∧ Answers j s r :=
  ⟨_, answers_of_answer hi, by rw [h]; exact answers_of_answer hj⟩

/-! ## Packets in numbers -/

theorem mt_eq (p : Packet) : p.mt = (msgType p.w1).toNat := (msgType_toNat _).symm
theorem grp_eq (p : Packet) : p.grp = (groupOf p.w1).toNat := (groupOf_toNat _).symm
theorem st_eq (p : Packet) : p.st = (statusOf p.w1).toNat := (statusOf_toNat _).symm
theorem cnt_eq (p : Packet) : p.cnt = countOf p := by rw [countOf, channelOf_toNat]; rfl

theorem mt_eq_three (p : Packet) : p.mt = 0x3 ↔ msgType p.w1 = 0x3#4 := by
  rw [mt_eq, ← BitVec.toNat_inj]; rfl

theorem ofNat_grp (p : Packet) : (BitVec.ofNat 4 p.grp : U4) = groupOf p.w1 := by
  rw [grp_eq, BitVec.ofNat_toNat, BitVec.setWidth_eq]

theorem slots_length (p : Packet) : (slots p).length = 6 := rfl

theorem slot_eq (p : Packet) {k : Nat} (h : k < (slots p).length) : p.slot k = ((slots p)[k]'h).toNat := by
  rw [slots_length] at h
  obtain rfl | rfl | rfl | rfl | rfl | rfl : k = 0 ∨ k = 1 ∨ k = 2 ∨ k = 3 ∨ k = 4 ∨ k = 5 := by omega
  · simp [Packet.slot, slots, byte2_toNat]
  · simp [Packet.slot, slots, byte3_toNat]
  · have := p.w2.isLt; simp [Packet.slot, slots, byte0_toNat]; omega
  · simp [Packet.slot, slots, byte1_toNat]
  · simp [Packet.slot, slots, byte2_toNat]
  · simp [Packet.slot, slots, byte3_toNat]

theorem countedSlots_length {p : Packet} (h : countOf p ≤ 6) : (countedSlots p).length = countOf p := by
  simp [countedSlots, slots_length, h]

theorem countedSlots_all {p : Packet} (h : countOf p ≤ 6) :
    (countedSlots p).all is7 = true ↔ ∀ k, k < countOf p → p.slot k < 0x80 := by
  rw [List.all_eq_true]
  constructor
  · intro hall k hk
    have hk' : k < (countedSlots p).length := by rw [countedSlots_length h]; exact hk
    have := hall _ (List.getElem_mem hk')
    rw [slot_eq p (by rw [slots_length]; omega)]
    simpa [countedSlots, is7] using this
  · intro hall b hb
    obtain ⟨k, hk, rfl⟩ := List.mem_iff_getElem.mp hb
    have hk' : k < countOf p := by rwa [countedSlots_length h] at hk
    have := hall k hk'
    rw [slot_eq p (by rw [slots_length]; omega)] at this
    simpa [countedSlots, is7] using this

/-- The machine's validity check is R515's. -/
theorem valid_iff (p : Packet) : p.Valid ↔ packetValid p = true := by
  simp only [Packet.Valid, packetValid, bodyValid, Bool.and_eq_true, decide_eq_true_eq, mt_eq_three, packetStatus?,
    PacketStatus.ofCode?_isSome, st_eq, cnt_eq, Config.packetCapacity]
  constructor
  · rintro ⟨h1, h2, h3, h4⟩
    exact ⟨h1, ⟨h2, h3⟩, (countedSlots_all h3).mpr h4⟩
  · rintro ⟨h1, ⟨h2, h3⟩, h4⟩
    exact ⟨h1, h2, h3, (countedSlots_all h3).mp h4⟩

/-- The machine's data bytes of a packet are R515's. -/
theorem bytes_eq {p : Packet} (h : countOf p ≤ 6) : p.bytes = packetBytes p := by
  apply List.ext_getElem
  · simp [Packet.bytes, packetBytes, countedSlots_length h, cnt_eq]
  · intro k h1 h2
    have hk : k < 6 := by simp [Packet.bytes, cnt_eq] at h1; omega
    simp only [Packet.bytes, packetBytes, countedSlots, List.getElem_map, List.getElem_range, List.getElem_take]
    rw [slot_eq p (by rw [slots_length]; exact hk)]
    apply BitVec.eq_of_toNat_eq
    simp [low7]

theorem valid_count_le {p : Packet} (h : p.Valid) : countOf p ≤ 6 := cnt_eq p ▸ h.2.2.1

end Sys2Proof.Machine
end

