-- ==== Sys2Proof/Tests/Slice0.lean ====
section
/-! SUPPORT. Tests: the checks of WellFormed, every constructor's decoding from words of the spec's encodings, one step of each
instruction against the vectors of 95_test_vectors.md, and for each statement a witness that meets its hypotheses. -/

namespace Sys2Proof.Tests

open Sys2Proof.Machine

/-! ## Helpers -/

/-- The response of an instruction executed in `s`. -/
def respOf (i : Instr) (s : State) : Option Response :=
  match exec i s with
  | .next t => t.response
  | .fault _ => none
  | .refused _ => none

/-- `SEG` after an instruction executed in `s`. -/
def segOf (i : Instr) (s : State) : Option SegContext :=
  match exec i s with
  | .next t => some t.seg
  | .fault _ => none
  | .refused _ => none

/-- `RA[g]` after an instruction executed in `s`. -/
def raAfter (i : Instr) (s : State) (g : U4) : Option ReasmContext :=
  match exec i s with
  | .next t => some (t.raOf g)
  | .fault _ => none
  | .refused _ => none

/-- The reset state. -/
def s0 : State := State.reset

/-- The reset state of a model that fixes `P_SX_MAX = 8` (95_test_vectors.md B6.6, C5). -/
def cap8 : State := { State.reset with pSxMax := some 8 }

/-- The state after a `start` packet of group 0 (C2, step 1). -/
def started : State := s0.setRa 0 { active := true, buf := [0x41, 1, 2, 3, 4, 5] }

/-- `started` under `P_SX_MAX = 8` (C5, step 4). -/
def started8 : State := cap8.setRa 0 { active := true, buf := [1, 2, 3, 4, 5, 6] }

/-- The data of B6.4, step 4. -/
def data8 : List U7 := [0x41, 1, 2, 3, 4, 5, 6, 7]

/-- `SEG` as B6.4 has it after step 4 and after step 5. -/
def loaded (pos : Nat) : State := s0.setSeg { active := true, data := data8, len := 8, pos := pos, group := 3 }

/-- NOTE_ON(group=0, channel=0, note=60, velocity=m1:100), the Event of C3. -/
def noteOn60 : Event := .noteOn 0 0 60 0xC992 0 0

/-- The manufacturer SysEx of A7. -/
def sysexA7 : Event := .sysex7 0 (.one 0x41) [1, 2, 3, 4, 5, 6, 7]

/-- A response OK. -/
def ok (r : Result) : Option Response := some (.ok r)

/-- An error response. -/
def err (k : ErrorKind) : Option Response := some (.error k)

/-! ## WellFormed: an ill-formed term for each check -/

theorem wf_refuses_bi_operands :
    (Instr.biAdd .w7 200 1).wf = false ∧ (Instr.biAdd .w7 1 128).wf = false ∧ (Instr.biSub .w4 16 1).wf = false ∧
    (Instr.biSub .w4 1 16).wf = false ∧ (Instr.biMul .w8 256 1).wf = false ∧ (Instr.biMul .w8 1 256).wf = false ∧
    (Instr.biDiv .w14 16384 1).wf = false ∧ (Instr.biDiv .w14 1 16384).wf = false ∧
    (Instr.biRem .w16 65536 1).wf = false ∧ (Instr.biRem .w16 1 65536).wf = false ∧
    (Instr.biCmp .w32 4294967296 1).wf = false ∧ (Instr.biCmp .w32 1 4294967296).wf = false := by decide

theorem wf_refuses_vv_operands :
    (Instr.vvFromM1 .vel 128).wf = false ∧ (Instr.vvFromM1 .pbv 16384).wf = false ∧
    (Instr.vvFromM2 .vel 0x10000).wf = false ∧ (Instr.vvFromM2 .amt 0x100000000).wf = false ∧
    (Instr.vvViewM1 .vel 0x10000).wf = false ∧ (Instr.vvViewM2 .ccv 0x100000000).wf = false := by decide

theorem wf_refuses_one_byte_ids :
    (Instr.m1ToBytes (.sysex7 0 (.one 0x00) []) none none).wf = false ∧
    (Instr.umpToWords (.sysex7 0 (.one 0x7E) []) .p1).wf = false ∧ (Instr.sxFrame (.sysex7 0 (.one 0x7F) [])).wf = false := by
  decide

theorem wf_refuses_frame_of_no_sysex : (Instr.sxFrame noteOn60).wf = false := by decide

theorem boundary_refuses_by_name :
    exec (.biAdd .w7 200 1) s0 = .refused (.boundary (.illTyped 0x05)) ∧
    exec (.vvFromM1 .vel 128) s0 = .refused (.boundary (.illTyped 0x10)) ∧
    exec (.sxFrame noteOn60) s0 = .refused (.boundary (.illTyped 0x40)) ∧
    decodeInput (.command 0x01 [.int 5, .int 3]) = .error (.illTyped 0x01) ∧
    decodeInput (.command 0x0B []) = .error (.unknownOpcode 0x0B) :=
  ⟨rfl, rfl, rfl, by decide, by decide⟩

/-! ## Decoding: requests by the opcodes of R134 -/

theorem decode_bounded_integers :
    decodeInput (.command 0x01 [.int 7, .int 127]) = .ok (.biFail .w7 127) ∧
    decodeInput (.command 0x02 [.int 4, .int 15]) = .ok (.biExact .w4 15) ∧
    decodeInput (.command 0x03 [.int 14, .int 20000]) = .ok (.biClamp .w14 20000) ∧
    decodeInput (.command 0x04 [.int 8, .int (-256)]) = .ok (.biTrunc .w8 (-256)) ∧
    decodeInput (.command 0x05 [.int 7, .int 60, .int 12]) = .ok (.biAdd .w7 60 12) ∧
    decodeInput (.command 0x06 [.int 4, .int 3, .int 4]) = .ok (.biSub .w4 3 4) ∧
    decodeInput (.command 0x07 [.int 32, .int 65535, .int 65537]) = .ok (.biMul .w32 65535 65537) ∧
    decodeInput (.command 0x08 [.int 7, .int 127, .int 2]) = .ok (.biDiv .w7 127 2) ∧
    decodeInput (.command 0x09 [.int 16, .int 9, .int 1]) = .ok (.biRem .w16 9 1) ∧
    decodeInput (.command 0x0A [.int 4, .int 9, .int 2]) = .ok (.biCmp .w4 9 2) := by decide

theorem decode_values_and_events :
    decodeInput (.command 0x10 [.vtype .ccv, .int 127]) = .ok (.vvFromM1 .ccv 127) ∧
    decodeInput (.command 0x11 [.vtype .vel, .int 0x1234]) = .ok (.vvFromM2 .vel 0x1234) ∧
    decodeInput (.command 0x12 [.vtype .amt, .validated .amt 0x01020408]) = .ok (.vvViewM1 .amt 0x01020408) ∧
    decodeInput (.command 0x13 [.vtype .pbv, .validated .pbv 0x8D1468A3]) = .ok (.vvViewM2 .pbv 0x8D1468A3) ∧
    decodeInput (.command 0x18 [.int 0x1, .fields [.int 0, .int 0, .int 72, .value (.m1 100)]]) =
      .ok (.evMake (.noteOn 0 0 (.raw 72) (.m1 100) none none)) := by decide

theorem decode_wire_commands :
    decodeInput (.command 0x20 [.event noteOn60, .int 1, .int 0]) = .ok (.m1ToBytes noteOn60 (some true) (some false)) ∧
    decodeInput (.command 0x21 [.ints [0x90, 0x48, 0x64], .int 5]) = .ok (.m1FromBytes [0x90, 0x48, 0x64] (some 5)) ∧
    decodeInput (.command 0x30 [.event noteOn60, .protocol .p2]) = .ok (.umpToWords noteOn60 .p2) ∧
    decodeInput (.command 0x31 [.ints [0x40904800, 0xC9920000]]) = .ok (.umpFromWords [0x40904800, 0xC9920000]) := by decide

theorem decode_sysex_commands :
    decodeInput (.command 0x40 [.event sysexA7]) = .ok (.sxFrame sysexA7) ∧
    decodeInput (.command 0x41 [.ints [0x7D], .int 1]) = .ok (.sxParse [0x7D] 1) ∧
    decodeInput (.command 0x42 [.ints [0x01], .int 15]) = .ok (.sxChunk [0x01] 15) ∧
    decodeInput (.command 0x43 [.packets [(0x30017DFF, 0xFFFFFFFF)]]) = .ok (.sxUnchunk [⟨0x30017DFF, 0xFFFFFFFF⟩]) ∧
    decodeInput (.command 0x44 [.ints [0x7E, 0x7F, 0x06, 0x01], .int 0]) = .ok (.sxSegLoad [0x7E, 0x7F, 0x06, 0x01] 0) ∧
    decodeInput (.command 0x45 []) = .ok .sxSegNext ∧
    decodeInput (.command 0x46 [.int 0x30164101, .int 0x02030405]) = .ok (.sxReasmPush 0x30164101 0x02030405) ∧
    decodeInput (.command 0x47 [.int 3]) = .ok (.sxReasmReset (some (.group 3))) ∧
    decodeInput (.command 0x47 []) = .ok (.sxReasmReset none) ∧
    decodeInput (.command 0x50 [.ints [0x90, 0x48], .ints [0x20]]) = .ok (.hexFormat [0x90, 0x48] (some [0x20])) ∧
    decodeInput (.command 0x7F []) = .ok .reset := by decide

/-! ## Decoding: messages by the formats of R142 and R151 to R155 -/

theorem decode_byte_messages :
    decodeInput (.midi1 [0x83, 0x3C, 0x40] none) = .ok (.m1NoteOff none 0x3 0x3C 0x40) ∧
    decodeInput (.midi1 [0x90, 0x3C, 0x64] (some 5)) = .ok (.m1NoteOn (some 5) 0x0 0x3C 0x64) ∧
    decodeInput (.midi1 [0xA0, 0x3B, 0x40] none) = .ok (.m1PolyPressure none 0x0 0x3B 0x40) ∧
    decodeInput (.midi1 [0xB9, 0x40, 0x41] none) = .ok (.m1ControlChange none 0x9 0x40 0x41) ∧
    decodeInput (.midi1 [0xC2, 0x05] none) = .ok (.m1ProgramChange none 0x2 0x05) ∧
    decodeInput (.midi1 [0xDF, 0x7F] none) = .ok (.m1ChannelPressure none 0xF 0x7F) ∧
    decodeInput (.midi1 [0xE0, 0x45, 0x46] none) = .ok (.m1PitchBend none 0x0 0x45 0x46) ∧
    decodeInput (.midi1 [0xF6] none) = .ok (.m1TuneRequest none) ∧
    decodeInput (.midi1 [0xF0, 0x41, 0x01, 0x02, 0xF7] none) = .ok (.m1Sysex none [0x41, 0x01, 0x02, 0xF7]) ∧
    decodeInput (.midi1 [0xF8] none) = .ok (.m1FromBytes [0xF8] none) := by decide

theorem decode_one_word_messages :
    decodeInput (.ump [0x1FF6ABCD]) = .ok (.ump1TuneRequest 0xF 0xABCD) ∧
    decodeInput (.ump [0x21833C40]) = .ok (.ump2NoteOff 0x1 0x3 0x3C 0x40) ∧
    decodeInput (.ump [0x20903C64]) = .ok (.ump2NoteOn 0x0 0x0 0x3C 0x64) ∧
    decodeInput (.ump [0x20A03B40]) = .ok (.ump2PolyPressure 0x0 0x0 0x3B 0x40) ∧
    decodeInput (.ump [0x20BF077F]) = .ok (.ump2ControlChange 0x0 0xF 0x07 0x7F) ∧
    decodeInput (.ump [0x20C205FF]) = .ok (.ump2ProgramChange 0x0 0x2 0x05 0xFF) ∧
    decodeInput (.ump [0x20D12000]) = .ok (.ump2ChannelPressure 0x0 0x1 0x20 0x00) ∧
    decodeInput (.ump [0x20E04546]) = .ok (.ump2PitchBend 0x0 0x0 0x45 0x46) ∧
    decodeInput (.ump [0x50000000]) = .ok (.umpFromWords [0x50000000]) := by decide

theorem decode_two_word_messages :
    decodeInput (.ump [0x40003C01, 0x12345678]) = .ok (.ump4PncRegistered 0x0 0x0 0x3C 0x01 0x12345678) ∧
    decodeInput (.ump [0x42197FFF, 0x00000000]) = .ok (.ump4PncAssignable 0x2 0x9 0x7F 0xFF 0x00000000) ∧
    decodeInput (.ump [0x40833C00, 0x81020000]) = .ok (.ump4NoteOff 0x0 0x3 0x3C 0x00 0x8102 0x0000) ∧
    decodeInput (.ump [0x42913C03, 0x80001234]) = .ok (.ump4NoteOn 0x2 0x1 0x3C 0x03 0x8000 0x1234) ∧
    decodeInput (.ump [0x40A03B00, 0x81020408]) = .ok (.ump4PolyPressure 0x0 0x0 0x3B 0x00 0x81020408) ∧
    decodeInput (.ump [0x43B94000, 0x80000000]) = .ok (.ump4ControlChange 0x3 0x9 0x40 0x00 0x80000000) ∧
    decodeInput (.ump [0x40C20001, 0x05000102]) = .ok (.ump4ProgramChange 0x0 0x2 0x00 0x01 0x05 0x00 0x01 0x02) ∧
    decodeInput (.ump [0x40D10000, 0x01000000]) = .ok (.ump4ChannelPressure 0x0 0x1 0x0000 0x01000000) ∧
    decodeInput (.ump [0x41E50000, 0x80000000]) = .ok (.ump4PitchBend 0x1 0x5 0x0000 0x80000000) := by decide

theorem decode_packets :
    decodeInput (.ump [0x30034101, 0x02000000]) = .ok (.ump3Complete 0x0 0x3 0x41 0x01 0x02 0x00 0x00 0x00) ∧
    decodeInput (.ump [0x30160102, 0x03040506]) = .ok (.ump3Start 0x0 0x6 0x01 0x02 0x03 0x04 0x05 0x06) ∧
    decodeInput (.ump [0x32260708, 0x090A0B0C]) = .ok (.ump3Continue 0x2 0x6 0x07 0x08 0x09 0x0A 0x0B 0x0C) ∧
    decodeInput (.ump [0x33320607, 0x00000000]) = .ok (.ump3End 0x3 0x2 0x06 0x07 0x00 0x00 0x00 0x00) ∧
    decodeInput (.ump [0x30734101, 0x00000000]) = .ok (.sxReasmPush 0x30734101 0x00000000) := by decide

/-- The host's probe: a table word, first word least significant, decodes to its row and runs as the next step. -/
theorem table_words_run_next :
    decodeTableWord 8 0x45 = some .sxSegNext ∧ decodeTableWord 32 0x40900000 = some (.ump4NoteOn 0 0 0 0 0 0) ∧
    step (s0.withFetchWord 8 0x45) = exec .sxSegNext s0 ∧
    step (s0.withFetchWord 32 0x40900000) = exec (.ump4NoteOn 0 0 0 0 0 0) s0 :=
  ⟨by decide, by decide, rfl, rfl⟩

/-! ## One step of each instruction (vectors of 95_test_vectors.md) -/

-- B1
theorem test_biFail : respOf (.biFail .w7 127) s0 = ok (.bounded .w7 127) ∧ respOf (.biFail .w7 128) s0 = err .rangeError := by
  decide
theorem test_biExact : respOf (.biExact .w4 15) s0 = ok (.exact .w4 (some 15)) ∧
    respOf (.biExact .w4 16) s0 = ok (.exact .w4 none) := by decide
theorem test_biClamp : respOf (.biClamp .w14 20000) s0 = ok (.bounded .w14 16383) ∧
    respOf (.biClamp .w7 (-500)) s0 = ok (.bounded .w7 0) := by decide
theorem test_biTrunc : respOf (.biTrunc .w4 (-1)) s0 = ok (.bounded .w4 15) ∧
    respOf (.biTrunc .w14 16389) s0 = ok (.bounded .w14 5) := by decide
theorem test_biAdd : respOf (.biAdd .w7 100 27) s0 = ok (.bounded .w7 127) ∧
    respOf (.biAdd .w32 0xFFFFFFFF 1) s0 = err .rangeError := by decide
theorem test_biSub : respOf (.biSub .w4 15 15) s0 = ok (.bounded .w4 0) ∧ respOf (.biSub .w4 3 4) s0 = err .rangeError := by
  decide
theorem test_biMul : respOf (.biMul .w32 0xFFFF 0x10001) s0 = ok (.bounded .w32 0xFFFFFFFF) ∧
    respOf (.biMul .w7 16 8) s0 = err .rangeError := by decide
theorem test_biDiv : respOf (.biDiv .w7 127 2) s0 = ok (.bounded .w7 63) ∧ respOf (.biDiv .w7 5 0) s0 = err .rangeError := by
  decide
theorem test_biRem : respOf (.biRem .w4 15 4) s0 = ok (.bounded .w4 3) ∧ respOf (.biRem .w8 9 0) s0 = err .rangeError := by
  decide
theorem test_biCmp : respOf (.biCmp .w7 3 100) s0 = ok (.cmp .lt) ∧ respOf (.biCmp .w32 0xFFFFFFFF 0xFFFFFFFF) s0 = ok (.cmp .eq) ∧
    respOf (.biCmp .w4 9 2) s0 = ok (.cmp .gt) := by decide

-- B2
theorem test_vvFromM1_linear : respOf (.vvFromM1 .ccv 100) s0 = ok (.validated .ccv 0xC993264C) ∧
    respOf (.vvFromM1 .vel 100) s0 = ok (.validated .vel 0xC992) := by decide
theorem test_vvFromM1_centered : respOf (.vvFromM1 .pbv 8192) s0 = ok (.validated .pbv 0x80000000) ∧
    respOf (.vvFromM1 .pbv 8193) s0 = ok (.validated .pbv 0x80040020) := by decide
theorem test_vvFromM2 : respOf (.vvFromM2 .vel 0x1234) s0 = ok (.validated .vel 0x1234) := by decide
theorem test_vvViewM1 : respOf (.vvViewM1 .vel 0x0102) s0 = ok (.bounded .w7 0) ∧
    respOf (.vvViewM1 .vel 0x0103) s0 = ok (.bounded .w7 1) ∧
    respOf (.vvViewM1 .pbv 0x80020008) s0 = ok (.bounded .w14 8192) := by decide
theorem test_vvViewM2 : respOf (.vvViewM2 .pbv 0x8D1468A3) s0 = ok (.bounded .w32 0x8D1468A3) := by decide

-- B3
theorem test_evMake : respOf (.evMake (.noteOn 0 0 (.raw 60) (.m1 100) none none)) s0 = ok (.event noteOn60) ∧
    respOf (.evMake (.noteOn 16 0 (.raw 60) (.m1 100) none none)) s0 = err .rangeError ∧
    respOf (.evMake (.pncAssignable 0 0 (.raw 60) 0 4294967296)) s0 = err .rangeError := by decide
theorem test_evMake_sysex : respOf (.evMake (.sysex7 0 (.one 0x7D) [])) s0 = ok (.event (.sysex7 0 (.one 0x7D) [])) ∧
    respOf (.evMake (.sysex7 0 (.one 0x7E) [])) s0 = err .rangeError ∧
    respOf (.evMake (.sysex7 0 (.one 0x41) [0x01, 0x80])) s0 = err .rangeError := by decide

-- B4
theorem test_m1ToBytes : respOf (.m1ToBytes (.noteOn 0 0 60 0x0102 0 0) none none) s0 = ok (.bytes [0x90, 0x3C, 0x00]) ∧
    respOf (.m1ToBytes (.pitchBend 0 0 0x12345678) none none) s0 = ok (.bytes [0xE0, 0x0D, 0x09]) ∧
    respOf (.m1ToBytes (.programChange 0 2 5 (.bank 1 2)) none none) s0 = err .unsupportedProtocolCombination := by decide
theorem test_m1ToBytes_sysex :
    respOf (.m1ToBytes (.sysex7 0 (.one 0x41) [1, 2]) none none) s0 = ok (.bytes [0xF0, 0x41, 0x01, 0x02, 0xF7]) ∧
    respOf (.m1ToBytes (.sysex7 0 (.one 0x41) [1, 2]) (some true) (some false)) s0 =
      ok (.bytes [0xF0, 0x41, 0x01, 0x02]) := by decide
theorem test_m1FromBytes : respOf (.m1FromBytes [0x90, 0x3C, 0x00] none) s0 = ok (.event (.noteOn 0 0 60 0 0 0)) ∧
    respOf (.m1FromBytes [0xE0, 0x45, 0x46] none) s0 = ok (.event (.pitchBend 0 0 0x8D1468A3)) ∧
    respOf (.m1FromBytes [0x3C, 0x64] none) s0 = err .malformedWireData ∧
    respOf (.m1FromBytes [0x90, 0x3C, 0x64, 0x3E, 0x64] none) s0 = err .malformedWireData := by decide
theorem test_m1FromBytes_sysex :
    respOf (.m1FromBytes [0xF0, 0x7E, 0x7F, 0x06, 0x01, 0xF7] none) s0 =
      ok (.event (.universalSysex7 0 .nonRealtime 0x7F 0x06 0x01 [])) ∧
    respOf (.m1FromBytes [0xF0, 0xF7] none) s0 = err .malformedWireData ∧
    respOf (.m1FromBytes [0xF0, 0x41, 0xF7, 0xF7] none) s0 = err .malformedWireData := by decide

-- B4.2, as received messages
theorem test_m1_forms_of_three_bytes :
    respOf (.m1NoteOff none 0xF 0x7F 0x00) s0 = ok (.event (.noteOff 0 15 0x7F 0 0 0)) ∧
    respOf (.m1NoteOn (some 5) 0x0 0x3C 0x64) s0 = ok (.event (.noteOn 5 0 60 0xC992 0 0)) ∧
    respOf (.m1NoteOn none 0x0 0x3C 0x80) s0 = err .malformedWireData ∧
    respOf (.m1PolyPressure none 0x0 0x3B 0x40) s0 = ok (.event (.polyPressure 0 0 0x3B 0x81020408)) ∧
    respOf (.m1ControlChange none 0x0 0x78 0x00) s0 = ok (.event (.controlChange 0 0 0x78 0)) ∧
    respOf (.m1PitchBend none 0x0 0x00 0x40) s0 = ok (.event (.pitchBend 0 0 0x80000000)) := by decide
theorem test_m1_other_forms :
    respOf (.m1ProgramChange none 0x2 0x05) s0 = ok (.event (.programChange 0 2 5 .noBank)) ∧
    respOf (.m1ChannelPressure none 0x1 0x20) s0 = ok (.event (.channelPressure 0 1 0x40810204)) ∧
    respOf (.m1TuneRequest none) s0 = ok (.event (.tuneRequest 0)) ∧
    respOf (.m1Sysex none [0x00, 0x20, 0x33, 0xF7]) s0 = ok (.event (.sysex7 0 (.three 0x20 0x33) [])) ∧
    respOf (.m1Sysex none [0x41, 0x01]) s0 = err .malformedWireData := by decide

-- B5
theorem test_umpToWords_p1 : respOf (.umpToWords (.controlChange 3 9 0x40 0x80000000) .p1) s0 = ok (.words [0x23B94040]) ∧
    respOf (.umpToWords (.pncRegistered 0 0 60 1 0x12345678) .p1) s0 = err .unsupportedProtocolCombination := by decide
theorem test_umpToWords_p2 :
    respOf (.umpToWords (.noteOn 2 1 60 0x8000 3 0x1234) .p2) s0 = ok (.words [0x42913C03, 0x80001234]) ∧
    respOf (.umpToWords sysexA7 .p2) s0 = ok (.words [0x30164101, 0x02030405, 0x30320607, 0x00000000]) := by decide
theorem test_umpFromWords : respOf (.umpFromWords [0x20903C64]) s0 = ok (.event noteOn60) ∧
    respOf (.umpFromWords [0x30164101, 0x02030405, 0x30320607, 0x00000000]) s0 = ok (.event sysexA7) ∧
    respOf (.umpFromWords [0x20F00000]) s0 = err .malformedWireData ∧
    respOf (.umpFromWords [0x40A03B00]) s0 = err .malformedWireData ∧
    respOf (.umpFromWords [0x30164101, 0x02030405, 0x31320607, 0x00000000]) s0 = err .malformedWireData := by decide

-- B5.4, as received messages
theorem test_ump1_ump2_forms :
    respOf (.ump1TuneRequest 0x0 0xABCD) s0 = ok (.event (.tuneRequest 0)) ∧
    respOf (.ump2NoteOff 0x1 0x3 0x3C 0x40) s0 = ok (.event (.noteOff 1 3 60 0x8102 0 0)) ∧
    respOf (.ump2NoteOn 0xF 0x0 0x3C 0x64) s0 = ok (.event (.noteOn 15 0 60 0xC992 0 0)) ∧
    respOf (.ump2NoteOn 0x0 0x0 0x3C 0x80) s0 = err .malformedWireData ∧
    respOf (.ump2PolyPressure 0x0 0x0 0x3B 0x40) s0 = ok (.event (.polyPressure 0 0 0x3B 0x81020408)) ∧
    respOf (.ump2ControlChange 0x0 0xF 0x07 0x7F) s0 = ok (.event (.controlChange 0 15 7 0xFFFFFFFF)) ∧
    respOf (.ump2ProgramChange 0x0 0x2 0x05 0xFF) s0 = ok (.event (.programChange 0 2 5 .noBank)) ∧
    respOf (.ump2ChannelPressure 0x0 0x1 0x20 0x00) s0 = ok (.event (.channelPressure 0 1 0x40810204)) ∧
    respOf (.ump2PitchBend 0x0 0x0 0x00 0x40) s0 = ok (.event (.pitchBend 0 0 0x80000000)) := by decide
theorem test_ump4_forms :
    respOf (.ump4PncRegistered 0x0 0x0 0x3C 0x01 0x12345678) s0 = ok (.event (.pncRegistered 0 0 60 1 0x12345678)) ∧
    respOf (.ump4PncAssignable 0x2 0x9 0x7F 0xFF 0) s0 = ok (.event (.pncAssignable 2 9 0x7F 0xFF 0)) ∧
    respOf (.ump4NoteOff 0x0 0x3 0x3C 0x00 0x8102 0) s0 = ok (.event (.noteOff 0 3 60 0x8102 0 0)) ∧
    respOf (.ump4NoteOn 0x2 0x1 0x3C 0x03 0x8000 0x1234) s0 = ok (.event (.noteOn 2 1 60 0x8000 3 0x1234)) ∧
    respOf (.ump4NoteOn 0x0 0x0 0x80 0x00 0xC992 0) s0 = err .malformedWireData ∧
    respOf (.ump4PolyPressure 0x0 0x0 0x3B 0x00 0x81020408) s0 = ok (.event (.polyPressure 0 0 0x3B 0x81020408)) ∧
    respOf (.ump4ControlChange 0x3 0x9 0x40 0x00 0x80000000) s0 = ok (.event (.controlChange 3 9 0x40 0x80000000)) ∧
    respOf (.ump4ChannelPressure 0x0 0x1 0x0000 0x01000000) s0 = ok (.event (.channelPressure 0 1 0x01000000)) ∧
    respOf (.ump4PitchBend 0x1 0x5 0x0000 0x80000000) s0 = ok (.event (.pitchBend 1 5 0x80000000)) := by decide
theorem test_ump4_program_change :
    respOf (.ump4ProgramChange 0x0 0x2 0x00 0x01 0x05 0x00 0x01 0x02) s0 = ok (.event (.programChange 0 2 5 (.bank 1 2))) ∧
    respOf (.ump4ProgramChange 0x0 0x0 0x00 0xFE 0x05 0x00 0x12 0x34) s0 = ok (.event (.programChange 0 0 5 .noBank)) ∧
    respOf (.ump4ProgramChange 0x0 0x0 0x00 0x01 0x05 0x00 0x81 0x02) s0 = err .malformedWireData := by decide

-- B6.1 to B6.3
theorem test_sxFrame : respOf (.sxFrame (.sysex7 0 (.three 0x20 0x33) [1])) s0 = ok (.data [0x00, 0x20, 0x33, 0x01]) ∧
    respOf (.sxFrame (.universalSysex7 0 .realtime 0x10 0x04 0x01 [0x7F, 0x7F])) s0 =
      ok (.data [0x7F, 0x10, 0x04, 0x01, 0x7F, 0x7F]) := by decide
theorem test_sxParse : respOf (.sxParse [0x00, 0x00, 0x00] 4) s0 = ok (.event (.sysex7 4 (.three 0 0) [])) ∧
    respOf (.sxParse [0x7E] 0) s0 = err .malformedWireData ∧ respOf (.sxParse [0x41, 0x90] 0) s0 = err .malformedWireData := by
  decide
theorem test_sxChunk : respOf (.sxChunk data8 0) s0 = ok (.packets [⟨0x30164101, 0x02030405⟩, ⟨0x30320607, 0x00000000⟩]) ∧
    respOf (.sxChunk [1] 15) s0 = ok (.packets [⟨0x3F010100, 0x00000000⟩]) ∧ respOf (.sxChunk [] 0) s0 = ok (.packets []) := by
  decide
theorem test_sxUnchunk : respOf (.sxUnchunk [⟨0x30164101, 0x02030405⟩, ⟨0x30320607, 0x00000000⟩]) s0 = ok (.data data8) ∧
    respOf (.sxUnchunk [⟨0x30017DFF, 0xFFFFFFFF⟩]) s0 = ok (.data [0x7D]) ∧
    respOf (.sxUnchunk [⟨0x30074101, 0x02030405⟩]) s0 = err .malformedWireData ∧
    respOf (.sxUnchunk [⟨0x30164101, 0x02030405⟩, ⟨0x30260607, 0x08090A0B⟩]) s0 = err .malformedWireData := by decide

-- B6.4 and B6.6
theorem test_sxSegLoad : segOf (.sxSegLoad data8 3) s0 = some { active := true, data := data8, len := 8, pos := 0, group := 3 } ∧
    segOf (.sxSegLoad [] 4) (loaded 6) = some SegContext.idle := by decide
theorem test_sxSegLoad_capacity : respOf (.sxSegLoad [1, 2, 3, 4, 5, 6, 7, 8, 9] 0) cap8 = err .refusedCapacity ∧
    respOf (.sxSegLoad [1, 2, 3, 4, 5, 6, 7, 8] 0) cap8 = ok .none := by decide
theorem test_sxSegNext : respOf .sxSegNext (loaded 0) = ok (.segOut (.packet ⟨0x33164101, 0x02030405⟩)) ∧
    segOf .sxSegNext (loaded 0) = some (loaded 6).seg := by decide
theorem test_sxSegNext_last : respOf .sxSegNext (loaded 6) = ok (.segOut (.packet ⟨0x33320607, 0x00000000⟩)) ∧
    segOf .sxSegNext (loaded 6) = some SegContext.idle ∧ respOf .sxSegNext s0 = ok (.segOut .done) := by decide

-- B6.5, C2, C4, C5
theorem test_sxReasmPush :
    respOf (.sxReasmPush 0x30034101 0x02000000) s0 = ok (.reasmOut (.message 0 [0x41, 1, 2])) ∧
    raAfter (.sxReasmPush 0x30164101 0x02030405) s0 0 = some (started.raOf 0) ∧
    respOf (.sxReasmPush 0x30320607 0x00000000) started = ok (.reasmOut (.message 0 data8)) ∧
    raAfter (.sxReasmPush 0x31017D00 0x00000000) started 0 = some (started.raOf 0) := by decide
theorem test_sxReasmPush_errors :
    respOf (.sxReasmPush 0x30164101 0x02030405) started = err .malformedWireData ∧
    raAfter (.sxReasmPush 0x30164101 0x02030405) started 0 = some ReasmContext.idle ∧
    respOf (.sxReasmPush 0x30330708 0x09000000) started8 = err .refusedCapacity ∧
    raAfter (.sxReasmPush 0x20903C64 0x00000000) started 0 = some (started.raOf 0) := by decide
theorem test_sxReasmReset : raAfter (.sxReasmReset (some (.group 0))) started 0 = some ReasmContext.idle ∧
    raAfter (.sxReasmReset (some (.group 1))) started 0 = some (started.raOf 0) ∧
    raAfter (.sxReasmReset none) started 0 = some ReasmContext.idle := by decide

-- The same packets, as received messages
theorem test_ump3_forms :
    respOf (.ump3Complete 0x0 0x3 0x41 0x01 0x02 0x00 0x00 0x00) s0 = ok (.reasmOut (.message 0 [0x41, 1, 2])) ∧
    raAfter (.ump3Start 0x0 0x6 0x41 0x01 0x02 0x03 0x04 0x05) s0 0 = some (started.raOf 0) ∧
    raAfter (.ump3Continue 0x0 0x6 0x06 0x07 0x08 0x09 0x0A 0x0B) started 0 =
      some { active := true, buf := [0x41, 1, 2, 3, 4, 5, 6, 7, 8, 9, 10, 11] } ∧
    respOf (.ump3End 0x0 0x2 0x06 0x07 0x00 0x00 0x00 0x00) started = ok (.reasmOut (.message 0 data8)) := by decide

-- B7: "F0 41" and "0A--FF"
theorem test_hexFormat : respOf (.hexFormat [0xF0, 0x41] none) s0 = ok (.bytes [0x46, 0x30, 0x20, 0x34, 0x31]) ∧
    respOf (.hexFormat [0x0A, 0xFF] (some [0x2D, 0x2D])) s0 = ok (.bytes [0x30, 0x41, 0x2D, 0x2D, 0x46, 0x46]) := by decide

-- B8
theorem test_reset : segOf .reset (loaded 6) = some SegContext.idle ∧ raAfter .reset started 0 = some ReasmContext.idle := by
  decide

/-! ## Witnesses: states and operands that meet the hypotheses of each statement -/

/-- Whether an instruction ends in the state `t`. -/
def endsIn (i : Instr) (s t : State) : Bool :=
  match exec i s with
  | .next u => decide (u = t)
  | .fault _ => false
  | .refused _ => false

theorem next_of_endsIn {i : Instr} {s t : State} (h : endsIn i s t = true) : exec i s = .next t := by
  unfold endsIn at h; split at h
  · rename_i he; rw [he, of_decide_eq_true h]
  · cases h
  · cases h

theorem answers_of_endsIn {i : Instr} {s : State} {r : Response} (h : endsIn i s { s with response := some r } = true) :
    Answers i s r := next_of_endsIn h

theorem next_of_respOf {i : Instr} {s : State} {r : Response} (h : respOf i s = some r) :
    ∃ t, exec i s = .next t ∧ t.response = some r := by
  unfold respOf at h; split at h
  · rename_i t he; exact ⟨t, he, h⟩
  · cases h
  · cases h

/-- A run state: a segmenter stream in flight, a message under way in group 0, a bound, and a request presented. -/
def running : State :=
  { cap8 with
    seg := { active := true, data := data8, len := 8, pos := 6, group := 3 }
    ra := started8.ra
    port := [.command 0x46 [.int 0x30320708, .int 0], .command 0x45 []] }

/-- The packet of data byte 0x7D, with zero fill and without (B6.3). -/
def packet7D : Packet := ⟨0x30017D00, 0⟩
def packet7Dfill : Packet := ⟨0x30017DFF, 0xFFFFFFFF⟩

/-- The two packets of `data8`. -/
def packets8 : List Packet := [⟨0x30164101, 0x02030405⟩, ⟨0x30320607, 0⟩]

theorem witness_StepRunsTheDecodedInstruction :
    (s0.withPort [.command 0x45 []]).port = [.command 0x45 []] ∧ decodeInput (.command 0x45 []) = .ok .sxSegNext := by decide

theorem witness_StepIsIdleOrRefusesByName :
    s0.port = [] ∧ (s0.withPort [.command 0x00 []]).port = [.command 0x00 []] ∧
    decodeInput (.command 0x00 []) = .error (.unknownOpcode 0x00) := by decide

theorem witness_UnknownOpcodesAreRefused :
    ∀ op ∈ [(0x00 : Byte), 0x0B, 0x0F, 0x14, 0x17, 0x19, 0x1F, 0x22, 0x2F, 0x32, 0x3F, 0x48, 0x4F, 0x51, 0x7E, 0x80, 0xFF],
      decodeInput (.command op []) = .error (.unknownOpcode op) := by decide

theorem witness_DecodedInstructionsAreWellTyped :
    decodeInput (.command 0x05 [.int 7, .int 127, .int 127]) = .ok (.biAdd .w7 127 127) := by decide

theorem witness_MixedWidthsAreRefused :
    Op.biAdd ∈ [Op.biAdd, .biSub, .biMul, .biDiv, .biRem, .biCmp] ∧
    ¬ (between 0 (2 ^ Width.w7.bits - 1) 128 ∧ between 0 (2 ^ Width.w7.bits - 1) 0) ∧
    ¬ (between 0 (2 ^ Width.w7.bits - 1) 0 ∧ between 0 (2 ^ Width.w7.bits - 1) (-1)) ∧
    ¬ (128 ≤ 2 ^ Width.w7.bits - 1 ∧ 0 ≤ 2 ^ Width.w7.bits - 1) := by unfold between; decide

theorem witness_IllTypedOperandsAreRefused :
    Op.biFail ∈ [Op.biFail, .biExact, .biClamp, .biTrunc, .biAdd, .biSub, .biMul, .biDiv, .biRem, .biCmp] ∧
    (5 : Int) ∉ [(4 : Int), 7, 8, 14, 16, 32] ∧ Op.sxChunk ∈ [Op.sxChunk, .sxSegLoad] ∧
    (∃ x ∈ [(0 : Int), 128], ¬ between 0 127 x) ∧ ¬ between 0 15 16 := by unfold between; decide

theorem witness_DecodeUndoesEncode : (Instr.m1ToBytes sysexA7 (some true) none).wf = true := by decide

theorem witness_ReceivedMessagesKeepEveryBit :
    decodeInput (.ump [0x20C205FF]) = .ok (.ump2ProgramChange 0 2 5 0xFF) ∧
    decodeInput (.ump [0x20F00000]) = .ok (.umpFromWords [0x20F00000]) ∧
    decodeInput (.ump [0x30434101, 0]) = .ok (.sxReasmPush 0x30434101 0) ∧
    decodeInput (.midi1 [0xC2, 0x05] none) = .ok (.m1ProgramChange none 2 5) ∧
    decodeInput (.midi1 [0xF8] none) = .ok (.m1FromBytes [0xF8] none) := by decide

theorem witness_WellTypedInstructionsAnswerOnce :
    (Instr.biAdd .w7 127 0).wf = true ∧ (Instr.biAdd .w7 128 0).wf = false := by decide

theorem running_inv : running.Inv where
  segLen := by decide
  segPos := by decide
  segIdle := by decide
  segCapacity := by simp [withinBound, running, cap8, data8]
  raIdle := by decide
  raCapacity := by
    intro g m hm
    have h8 : m = 8 := by simpa [running, cap8] using hm.symm
    subst h8
    revert g; decide
  capacity := by simp [running, cap8]
  result := by simp [running, cap8, State.reset]
  refusal := by simp [running, cap8, State.reset]

theorem witness_EveryStepKeepsTheInvariant : running.Inv ∧ ∃ t, step running = .next t :=
  ⟨running_inv, _, rfl⟩

theorem witness_BoundedConstructors :
    between 0 (2 ^ Width.w7.bits - 1) 127 ∧ ¬ between 0 (2 ^ Width.w7.bits - 1) 128 ∧ ¬ between 0 (2 ^ Width.w7.bits - 1) (-1) ∧
    ((-1 : Int) < 0) ∧ ((2 : Int) ^ Width.w7.bits - 1 < 128) := by unfold between; decide

theorem witness_BoundedArithmeticIsExact :
    15 ≤ 2 ^ Width.w4.bits - 1 ∧ 15 + 0 ≤ 2 ^ Width.w4.bits - 1 ∧ 2 ^ Width.w4.bits - 1 < 15 + 1 ∧
    3 * 5 ≤ 2 ^ Width.w4.bits - 1 ∧ 2 ^ Width.w4.bits - 1 < 4 * 4 := by decide

theorem witness_BoundedCompare : 0 ≤ 2 ^ Width.w4.bits - 1 ∧ 15 ≤ 2 ^ Width.w4.bits - 1 ∧ (0 : Nat) < 15 := by decide

theorem witness_ValidatedValuesRescaleToNearest :
    127 ≤ 2 ^ VType.vel.m1Width.bits - 1 ∧ VType.vel.centered = false ∧ VType.pbv.centered = true ∧
    16383 ≤ 2 ^ VType.pbv.m1Width.bits - 1 ∧ 8192 ≤ 2 ^ (VType.pbv.m1Width.bits - 1) ∧
    2 ^ (VType.pbv.m1Width.bits - 1) < 8193 ∧ 65535 ≤ 2 ^ VType.vel.m2Width.bits - 1 := by decide

theorem witness_RescaleLaws :
    (63 < 64 ∧ 64 ≤ 2 ^ VType.vel.m1Width.bits - 1) ∧
    Answers (.vvFromM1 .vel 63) s0 (.ok (.validated .vel 0x7EFD)) ∧ Answers (.vvFromM1 .vel 64) s0 (.ok (.validated .vel 0x8102)) ∧
    (0x0102 ≤ 0x0103 ∧ 0x0103 ≤ 2 ^ VType.vel.m2Width.bits - 1) ∧
    Answers (.vvViewM1 .vel 0x0102) s0 (.ok (.bounded .w7 0)) ∧ Answers (.vvViewM1 .vel 0x0103) s0 (.ok (.bounded .w7 1)) :=
  ⟨by decide, answers_of_endsIn (by decide), answers_of_endsIn (by decide), by decide, answers_of_endsIn (by decide),
    answers_of_endsIn (by decide)⟩

theorem witness_EventConstruction :
    (RawEvent.noteOn 15 15 (.raw 127) (.m2 0xFFFF) (some 255) (some 65535)).InRange ∧
    ¬ (RawEvent.noteOn 16 0 (.raw 60) (.m1 100) none none).InRange ∧ ¬ (RawEvent.sysex7 0 (.one 0x7E) []).InRange := by
  simp only [RawEvent.InRange, RawNumber.InRange, RawValue.InRange, RawManufacturer.InRange, between]; decide

theorem witness_NoteMessagesInBytes :
    ((0 : Byte) ≠ 0 ∨ (1 : U16) ≠ 0) ∧ ((3 : Byte) ≠ 0 ∨ (0 : U16) ≠ 0) ∧
    ((0x7F : Byte).toNat < 0x80 ∧ (0x00 : Byte).toNat < 0x80) ∧ (0x80 ≤ (0x80 : Byte).toNat ∨ 0x80 ≤ (0x00 : Byte).toNat) ∧
    (0x80 ≤ (0x7F : Byte).toNat ∨ 0x80 ≤ (0x80 : Byte).toNat) := by decide

theorem witness_ChannelMessagesInBytes :
    ((0x7F : Byte).toNat < 0x80 ∧ (0x7F : Byte).toNat < 0x80) ∧ (0x80 ≤ (0x80 : Byte).toNat ∨ 0x80 ≤ (0x00 : Byte).toNat) := by
  decide

theorem witness_SysExInBytes :
    sysexA7.wf = true ∧ sysexA7.isSysEx = true ∧ (∀ x ∈ [(0x7F : Byte), 0x00], x.toNat < 0x80) ∧
    (¬ ∃ d, ([0x41, 0x01] : List Byte) = d ++ [0xF7] ∧ ∀ x ∈ d, x.toNat < 0x80) ∧
    ¬ ∃ d, ([0x41, 0xF7, 0xF7] : List Byte) = d ++ [0xF7] ∧ ∀ x ∈ d, x.toNat < 0x80 := by
  refine ⟨by decide, by decide, by decide, ?_, ?_⟩
  · rintro ⟨d, hd, -⟩
    have := congrArg List.getLast? hd; simp at this
  · rintro ⟨d, hd, h7⟩
    have := congrArg List.dropLast hd
    simp only [List.dropLast_concat] at this
    exact absurd (h7 0xF7 (by rw [← this]; decide)) (by decide)

theorem witness_ByteWireFormsGiveTheirEvent :
    (0x7F : Byte).toNat < 0x80 ∧ (0x00 : Byte).toNat < 0x80 ∧ 0x01 ≤ (0x01 : U7).toNat ∧ (0x7D : U7).toNat ≤ 0x7D := by decide

theorem witness_ByteWireFormsStandForFromBytes : ∀ x ∈ [(0x41 : Byte), 0x7F], x.toNat < 0x80 := by decide

/-- Whether an operand of M1_FROMBYTES is a whole message of R301, by the ranges of the statement. -/
def whole (b0 : Byte) (rest : List Byte) : Prop :=
  (∀ x ∈ rest, x.toNat < 0x80) ∧
    (((0x80 ≤ b0.toNat ∧ b0.toNat ≤ 0xBF ∨ 0xE0 ≤ b0.toNat ∧ b0.toNat ≤ 0xEF) ∧ rest.length = 2) ∨
      ((0xC0 ≤ b0.toNat ∧ b0.toNat ≤ 0xDF) ∧ rest.length = 1) ∨ (b0 = 0xF6 ∧ rest.length = 0))

theorem witness_BytesDecodeOnlyWholeMessages :
    whole 0x80 [0x7F, 0x00] ∧ whole 0xBF [0x00, 0x7F] ∧ whole 0xE0 [0, 0] ∧ whole 0xEF [0, 0] ∧ whole 0xC0 [0x7F] ∧
    whole 0xDF [0] ∧ whole 0xF6 [] ∧ ¬ whole 0x7F [0, 0] ∧ ¬ whole 0x90 [0x80, 0] ∧ ¬ whole 0x90 [0] ∧ ¬ whole 0xC0 [0, 0] ∧
    ¬ whole 0xF6 [0] ∧ ¬ whole 0xF7 [] ∧ ¬ ∃ d, ([0x41, 0xF7, 0xF7] : List Byte) = d ++ [0xF7] ∧ (0xF7 : Byte) ∉ d := by
  unfold whole
  refine ⟨?_, ?_, ?_, ?_, ?_, ?_, ?_, ?_, ?_, ?_, ?_, ?_, ?_, ?_⟩
  case refine_14 =>
    rintro ⟨d, hd, h⟩
    have := congrArg List.dropLast hd
    simp only [List.dropLast_concat] at this
    exact h (by rw [← this]; decide)
  all_goals decide

theorem witness_ByteRoundTrip :
    noteOn60.wf = true ∧ ¬ only2 noteOn60 ∧ eventOnGrid noteOn60 ∧ sysexA7.isSysEx = true ∧ (true && false) = false ∧
    Answers (.m1ToBytes sysexA7 (some true) (some false)) s0 (.ok (.bytes [0xF0, 0x41, 1, 2, 3, 4, 5, 6, 7])) := by
  refine ⟨by decide, by unfold only2; decide, ⟨100, by decide, by decide⟩, by decide, rfl, answers_of_endsIn (by decide)⟩

theorem witness_UnsupportedCombinations :
    only2 (.pncRegistered 0 0 60 1 0) ∧ only2 (.pncAssignable 0 0 60 1 0) ∧ only2 (.noteOff 0 0 60 0 1 0) ∧
    only2 (.noteOn 0 0 60 0 0 1) ∧ only2 (.programChange 0 0 0 (.bank 0 0)) ∧ ¬ only2 (.programChange 0 0 0 .noBank) ∧
    ¬ only2 noteOn60 := by unfold only2; decide

theorem witness_EncodersFollowTheClassification :
    sysexA7.wf = true ∧ Answers (.m1ToBytes (.tuneRequest 7) none none) s0 (.ok (.bytes [0xF6])) ∧
    Answers (.umpToWords (.tuneRequest 15) .p1) s0 (.ok (.words [0x1FF60000])) ∧
    (classification .pncRegistered).midi1 = none ∧ (classification .noteOn).p2.2.1 = some 0x9 :=
  ⟨by decide, answers_of_endsIn (by decide), answers_of_endsIn (by decide), by decide, by decide⟩

theorem witness_ProtocolOneWords :
    ((0x7F : Byte).toNat < 0x80 ∧ (0x00 : Byte).toNat < 0x80) ∧ (0x80 ≤ (0x00 : Byte).toNat ∨ 0x80 ≤ (0x80 : Byte).toNat) ∧
    0x8 ∈ [0x8, 0x9, 0xA, 0xB, 0xE] ∧ 0xD ∈ [0xC, 0xD] ∧ ((0 : Byte) ≠ 0 ∨ (1 : U16) ≠ 0) := by decide

theorem witness_ProtocolTwoWords :
    (0x7F : Byte).toNat < 0x80 ∧ 0x80 ≤ (0x80 : Byte).toNat ∧ 0xB ∈ [0x0, 0x1, 0x8, 0x9, 0xA, 0xB] ∧
    (0xFE : Byte).toNat % 2 = 0 ∧ (0x01 : Byte).toNat % 2 = 1 ∧
    (0x80 ≤ (0x7F : Byte).toNat ∨ ((0x01 : Byte).toNat % 2 = 1 ∧ (0x80 ≤ (0x80 : Byte).toNat ∨ 0x80 ≤ (0x00 : Byte).toNat))) := by
  decide

theorem witness_SysExInWords :
    sysexA7.wf = true ∧ sysexA7.isSysEx = true ∧ (⟨0x30164101, 0x02030405⟩ : Packet).mt = 0x3 ∧
    (∀ q ∈ [(⟨0x30320607, 0⟩ : Packet)], q.mt = 0x3 ∧ q.grp = (⟨0x30164101, 0x02030405⟩ : Packet).grp) ∧
    Answers (.sxUnchunk packets8) s0 (.ok (.data data8)) ∧
    Answers (.sxUnchunk [⟨0x30164101, 0x02030405⟩]) s0 (.error .malformedWireData) ∧
    ¬ ∀ q ∈ [(⟨0x31320607, 0⟩ : Packet)], q.mt = 0x3 ∧ q.grp = (⟨0x30164101, 0x02030405⟩ : Packet).grp :=
  ⟨by decide, by decide, by decide, by decide, answers_of_endsIn (by decide), answers_of_endsIn (by decide), by decide⟩

theorem witness_OneWordFormsGiveTheirEvent : (0x7F : Byte).toNat < 0x80 ∧ (0x00 : Byte).toNat < 0x80 := by decide

theorem witness_TwoWordFormsGiveTheirEvent :
    (0x7F : Byte).toNat < 0x80 ∧ (0x00 : Byte).toNat % 2 = 0 ∧ (0xFF : Byte).toNat % 2 = 1 := by decide

theorem witness_WordsOfNoFormAreMalformed :
    (0x0FFFFFFF : Word).toNat / 2 ^ 28 = 0x0 ∧ 0x5 ≤ (0x50000000 : Word).toNat / 2 ^ 28 ∧
    ((0x10F80000 : Word).toNat / 2 ^ 28 = 0x1 ∧ (0x10F80000 : Word).toNat / 2 ^ 16 % 256 ≠ 0xF6) ∧
    ((0x20703C64 : Word).toNat / 2 ^ 28 = 0x2 ∧ (0x20703C64 : Word).toNat / 2 ^ 20 % 16 < 0x8) ∧
    0xE < (0x20F00000 : Word).toNat / 2 ^ 20 % 16 ∧
    ((0x40F00000 : Word).toNat / 2 ^ 28 = 0x4 ∧ (0x40F00000 : Word).toNat / 2 ^ 20 % 16 ∈ [0x2, 0x3, 0x4, 0x5, 0x6, 0x7, 0xF]) ∧
    (0x30434101 : Word).toNat / 2 ^ 28 = 0x3 ∧ (∃ p ∈ pairWords [0x30434101, 0], 0x3 < p.st) ∧
    (∃ p ∈ pairWords [0x30074101, 0x02030405], 6 < p.cnt) ∧ ([0x10F60000] : List Word).length ≠ 0 ∧
    ([] : List Word).length ≠ 1 ∧ ([] : List Word).length % 2 = 0 := by decide

theorem witness_ReservedFieldsAreIgnored :
    (0x00 : Byte).toNat % 2 = (0xFE : Byte).toNat % 2 ∧ (0xFE : Byte).toNat % 2 = 0 ∧
    packet7D.mt = packet7Dfill.mt ∧ packet7D.grp = packet7Dfill.grp ∧ packet7D.st = packet7Dfill.st ∧
    packet7D.cnt = packet7Dfill.cnt ∧ (∀ k, k < packet7D.cnt → packet7D.slot k = packet7Dfill.slot k) ∧
    packet7D ≠ packet7Dfill := by decide

theorem witness_WordRoundTrip : noteOn60.wf = true ∧ ¬ only2 noteOn60 ∧ eventOnGrid noteOn60 :=
  ⟨by decide, by unfold only2; decide, ⟨100, by decide, by decide⟩⟩

theorem witness_FramingAndParsing :
    noteOn60.isSysEx = false ∧
    (0x01 ≤ (0x01 : U7).toNat ∧ (0x7D : U7).toNat ≤ 0x7D) ∧ (∃ x ∈ [(0x41 : Byte), 0x90], 0x80 ≤ x.toNat) ∧
    (([0x00, 0x20] : List Byte).head? = some 0x00 ∧ ([0x00, 0x20] : List Byte).length < 3) ∧
    ((([0x7E, 1, 2] : List Byte).head? = some 0x7E ∨ ([0x7E, 1, 2] : List Byte).head? = some 0x7F) ∧
      ([0x7E, 1, 2] : List Byte).length < 4) := by decide

theorem witness_FramingLaws :
    sysexA7.wf = true ∧ sysexA7.isSysEx = true ∧
    Answers (.sxParse [0x7E, 0x7F, 0x06, 0x01] 0) s0 (.ok (.event (.universalSysex7 0 .nonRealtime 0x7F 0x06 0x01 []))) :=
  ⟨by decide, by decide, answers_of_endsIn (by decide)⟩

theorem witness_ChunkPackets :
    Answers (.sxChunk data8 0) s0 (.ok (.packets packets8)) ∧ packets8[1]? = some ⟨0x30320607, 0⟩ ∧ packets8[0]?.isSome :=
  ⟨answers_of_endsIn (by decide), by decide, by decide⟩

theorem valid_of_packetValid {p : Packet} (h : packetValid p = true) : p.Valid := (valid_iff p).mpr h

theorem witness_UnchunkAcceptsWholeMessages :
    ((∀ p ∈ packets8, p.Valid) ∧ (∀ p ∈ packets8, ∀ q ∈ packets8, p.grp = q.grp) ∧
      packets8.map Packet.st = 0x1 :: List.replicate 0 0x2 ++ [0x3]) ∧
    (packet7Dfill.Valid ∧ [packet7Dfill].map Packet.st = [0x0]) ∧ ¬ (⟨0x30074101, 0x02030405⟩ : Packet).Valid := by
  refine ⟨⟨fun p hp => valid_of_packetValid ?_, by decide, by decide⟩, ⟨valid_of_packetValid (by decide), by decide⟩, ?_⟩
  · revert p; decide
  · rw [valid_iff]; decide

theorem witness_ChunkRoundTrip :
    Answers (.sxUnchunk packets8) s0 (.ok (.data data8)) ∧ (∀ q ∈ packets8.dropLast, q.cnt = 6) ∧
    ∀ q, packets8.getLast? = some q → 1 ≤ q.cnt :=
  ⟨answers_of_endsIn (by decide), by decide, by intro q hq; cases hq; decide⟩

theorem witness_SegmenterCommands :
    withinBound cap8.pSxMax 8 ∧ withinBound cap8.pSxMax ([] : List U7).length ∧ ¬ withinBound cap8.pSxMax 9 ∧ data8 ≠ [] ∧
    s0.seg.active = false ∧ (loaded 0).seg.active = true ∧ (loaded 0).seg.len = (loaded 0).seg.data.length ∧
    (loaded 6).seg.pos < (loaded 6).seg.len ∧ (loaded 6).seg.len - (loaded 6).seg.pos ≤ 6 ∧
    6 < (loaded 0).seg.len - (loaded 0).seg.pos := by
  refine ⟨?_, ?_, ?_, by decide, by decide, by decide, by decide, by decide, by decide, by decide⟩ <;>
    simp [withinBound, cap8]

theorem witness_SegmenterLaw :
    (∃ t, exec (.sxSegLoad data8 3) s0 = .next t ∧ t.response = some (.ok .none)) ∧
    ∀ i ∈ [Instr.sxSegNext, .hexFormat [1] none, .sxReasmReset none, .sxSegNext, .sxSegNext],
      i.wf = true ∧ (i = .sxSegNext ∨ touchesSeg i = false) :=
  ⟨next_of_respOf (by decide), by decide⟩

theorem witness_ReassemblerTable :
    (⟨0x20903C64, 0⟩ : Packet).mt ≠ 0x3 ∧
    ((⟨0x30734101, 0⟩ : Packet).mt = 0x3 ∧ ¬ (⟨0x30734101, 0⟩ : Packet).Valid) ∧
    ((⟨0x30034101, 0x02000000⟩ : Packet).Valid ∧ (⟨0x30034101, 0x02000000⟩ : Packet).st = 0x0) ∧
    ((⟨0x30164101, 0x02030405⟩ : Packet).Valid ∧ (⟨0x30164101, 0x02030405⟩ : Packet).st = 0x1) ∧
    ((⟨0x30220708, 0⟩ : Packet).Valid ∧ (⟨0x30220708, 0⟩ : Packet).st = 0x2) ∧
    ((⟨0x30330708, 0x09000000⟩ : Packet).Valid ∧ (⟨0x30330708, 0x09000000⟩ : Packet).st = 0x3) ∧
    (s0.raOf 0).active = false ∧ (started8.raOf 0).active = true ∧
    withinBound started8.pSxMax ((started8.raOf 0).buf.length + 2) ∧
    ¬ withinBound started8.pSxMax ((started8.raOf 0).buf.length + 3) := by
  refine ⟨by decide, ⟨by decide, by rw [valid_iff]; decide⟩, ⟨valid_of_packetValid (by decide), by decide⟩,
    ⟨valid_of_packetValid (by decide), by decide⟩, ⟨valid_of_packetValid (by decide), by decide⟩,
    ⟨valid_of_packetValid (by decide), by decide⟩, by decide, by decide, ?_, ?_⟩
  · intro m hm; cases hm; decide
  · intro h; exact absurd (h 8 rfl) (by decide)

theorem witness_ReassemblerLaw :
    data8 ≠ [] ∧ cap8.raOf 0 = { active := false, buf := [] } ∧ withinBound cap8.pSxMax data8.length ∧
    Answers (.sxChunk data8 0) cap8 (.ok (.packets packets8)) ∧
    (let is := [Instr.sxReasmPush 0x30164101 0x02030405, .sxReasmPush 0x31017D00 0, .sxSegNext, .sxReasmPush 0x30320607 0]
     (∀ i ∈ is, i.wf = true) ∧ is.filter (touchesRa 0) = packets8.map (fun p => Instr.sxReasmPush p.w1 p.w2)) :=
  ⟨by decide, by decide, by simp [withinBound, cap8, data8], answers_of_endsIn (by decide), by decide⟩

theorem witness_GroupsAreIsolated :
    (⟨0x31017D00, 0⟩ : Packet).grp = (1 : U4).toNat ∧ started.raOf 1 = (loaded 0).raOf 1 ∧ started.pSxMax = (loaded 0).pSxMax ∧
    started.raOf 0 ≠ (loaded 0).raOf 0 := by decide

theorem witness_CapacityRefusals :
    (∃ t, exec (.sxSegLoad [1, 2, 3, 4, 5, 6, 7, 8, 9] 0) cap8 = .next t ∧ t.response = some (.error .refusedCapacity)) ∧
    ∃ t, exec (.sxReasmPush 0x30330708 0x09000000) started8 = .next t ∧ t.response = some (.error .refusedCapacity) :=
  ⟨next_of_respOf (by decide), next_of_respOf (by decide)⟩

theorem witness_PacketWireForms :
    (6 : U4).toNat ≤ 6 ∧ (∀ x ∈ ([0x7F, 0, 0xFF, 0xFF, 0xFF, 0xFF] : List Byte).take (2 : U4).toNat, x.toNat < 0x80) ∧
    (s0.raOf 0).active = false ∧ (started8.raOf 0).active = true ∧
    withinBound started8.pSxMax ((started8.raOf 0).buf.length + (2 : U4).toNat) := by
  refine ⟨by decide, by decide, by decide, by decide, ?_⟩
  intro m hm; cases hm; decide

theorem witness_PureCommands :
    isPure (.biAdd .w7 1 1) = true ∧ (Instr.biAdd .w7 1 1).wf = true ∧ isPure (.sxReasmPush 0x20903C64 0) = true ∧
    Instr.sxSegNext.wf = true := by decide

theorem witness_SegmenterAndReassemblerAreIndependent :
    Instr.sxSegNext.wf = true ∧ effectOf .sxSegNext = .segmenter ∧ (loaded 6).seg = ((loaded 6).clearRa 0).seg ∧
    effectOf (.sxReasmPush 0x3F017D00 0) = .context 15 ∧ effectOf (.sxReasmReset none) = .contexts ∧
    s0.ra = (loaded 6).ra ∧ s0.seg ≠ (loaded 6).seg ∧ s0.pSxMax = (loaded 6).pSxMax := by decide

theorem witness_ErrorsWriteOnlyTheirContext :
    ∃ t, exec (.sxReasmPush 0x30164101 0x02030405) started = .next t ∧ t.response = some (.error .malformedWireData) :=
  next_of_respOf (by decide)

theorem witness_ErrorStatuses :
    (∃ t, exec (.biAdd .w7 127 1) s0 = .next t ∧ t.response = some (.error .rangeError)) ∧
    ∃ t, exec (.sxReasmPush 0x30330708 0x09000000) started8 = .next t ∧ t.response = some (.error .refusedCapacity) :=
  ⟨next_of_respOf (by decide), next_of_respOf (by decide)⟩

theorem witness_OutputBounds :
    Answers (.sxUnchunk packets8) s0 (.ok (.data data8)) ∧
    Answers (.m1FromBytes [0xF0, 0x7D, 0xF7] none) s0 (.ok (.event (.sysex7 0 (.one 0x7D) []))) ∧
    Answers (.umpFromWords [0x30017D00, 0]) s0 (.ok (.event (.sysex7 0 (.one 0x7D) []))) ∧ running.Inv ∧
    ∃ t, step running = .next t ∧ t.response = some (.ok (.reasmOut (.message 0 [1, 2, 3, 4, 5, 6, 7, 8]))) :=
  ⟨answers_of_endsIn (by decide), answers_of_endsIn (by decide), answers_of_endsIn (by decide), running_inv, _, rfl, by decide⟩

end Sys2Proof.Tests
end

section
/-! PROOFS. 00_scope.md: a request whose operand has not its type is refused at the command boundary. -/

namespace Sys2Proof

/-! ## What a type check refuses -/

/-- Only the six numbers of R10 name a width. -/
theorem Width.ofInt?_eq_none {v : Int} (h : v ∉ [(4 : Int), 7, 8, 14, 16, 32]) : Width.ofInt? v = none := by
  rw [Width.ofInt?, List.find?_eq_none]
  intro w _ hw
  rw [beq_iff_eq.mp hw] at h
  cases w <;> exact h (by decide)

theorem uInt?_eq_none {n : Nat} {v : Int} (h : ¬ (0 ≤ v ∧ v < 2 ^ n)) : uInt? n v = none := if_neg h

/-- One element outside the type makes the whole sequence ill typed. -/
theorem uList?_eq_none {n : Nat} {vs : List Int} {x : Int} (hx : x ∈ vs) (h : uInt? n x = none) : uList? n vs = none := by
  induction hx with
  | head vs => simp [uList?, h]
  | tail v _ ih => simp [uList?, ih]

/-! ## Commands with an operand that is refused -/

/-- The boundary refuses by name a command whose operands have not their types (R73, R606). -/
theorem decodeInput_illTyped {op : Op} {os : List Operand} (h : decodeOperands op os = none) :
    decodeInput (.command op.code os) = .error (.illTyped op.code) := by
  simp [decodeInput, decodeCommand, h]

/-- A command that names a width needs one as its first operand, whatever the other operands are. -/
theorem decodeOperands_of_width?_eq_none {op : Op} {os : List Operand}
    (hop : op ∈ [Op.biFail, .biExact, .biClamp, .biTrunc, .biAdd, .biSub, .biMul, .biDiv, .biRem, .biCmp])
    (h : width? (arg os 0) = none) : decodeOperands op os = none := by
  unfold decodeOperands
  split
  · rfl
  · fin_cases hop <;> simp [h]

/-- SX_CHUNK and SX_SEG_LOAD need a sequence of U7s and a group. -/
theorem decodeOperands_of_seq?_or_group?_eq_none {op : Op} {os : List Operand} (hop : op ∈ [Op.sxChunk, .sxSegLoad])
    (h : seq? 7 (arg os 0) = none ∨ group? (arg os 1) = none) : decodeOperands op os = none := by
  unfold decodeOperands
  split
  · rfl
  · fin_cases hop <;> rcases h with h | h <;> simp [h]

/-- Settles O6: what is no width, no U7 or no group fails its type check, and the command that reads it is refused. -/
theorem illTypedOperandsAreRefused : Obligations.IllTypedOperandsAreRefused := by
  unfold Obligations.IllTypedOperandsAreRefused
  constructor
  · intro op n os hop hn
    exact decodeInput_illTyped (decodeOperands_of_width?_eq_none hop (Width.ofInt?_eq_none hn))
  · intro op d g hop hbad
    refine decodeInput_illTyped (decodeOperands_of_seq?_or_group?_eq_none hop (hbad.imp ?_ ?_))
    · rintro ⟨x, hx, hx7⟩
      exact uList?_eq_none hx (uInt?_eq_none fun h => hx7 ⟨h.1, Int.lt_add_one_iff.mp h.2⟩)
    · intro hg
      exact uInt?_eq_none fun h => hg ⟨h.1, Int.lt_add_one_iff.mp h.2⟩

end Sys2Proof
end

section
/-! PROOFS. 10_state.md: the command boundary lets only well-typed operands through, the groups' contexts are isolated, and
every step keeps the invariants of SEG, of each RA[g] and of the response. -/

namespace Sys2Proof

/-! ## What the decoder answers with is well formed (R73) -/

/-- Whatever instruction is answered, it is well formed. -/
def AnswersWf (x : Option Instr) : Prop := ∀ i, x = some i → i.wf = true

theorem AnswersWf.some {i : Instr} (h : i.wf = true) : AnswersWf (some i) := by
  rintro _ ⟨⟩
  exact h

/-- After a type check that passed, the rest may use what the check accepted. -/
theorem AnswersWf.bind {α : Type} {x : Option α} {f : α → Option Instr} (hf : ∀ a, x = .some a → AnswersWf (f a)) :
    AnswersWf (x >>= f) := by
  cases x with
  | none => rintro _ ⟨⟩
  | some a => exact hf a rfl

theorem decodeOperands_answersWf (op : Op) (os : List Operand) : AnswersWf (decodeOperands op os) := by
  unfold decodeOperands
  split
  · rintro _ ⟨⟩
  · cases op with
    | sxSegNext | reset => exact .some rfl
    | evMake | umpFromWords | sxUnchunk | sxReasmReset => exact .bind fun _ _ => .some rfl
    | biFail | biExact | biClamp | biTrunc | m1FromBytes | sxParse | sxChunk | sxSegLoad | sxReasmPush | hexFormat =>
      exact .bind fun _ _ => .bind fun _ _ => .some rfl
    | biAdd | biSub | biMul | biDiv | biRem | biCmp =>
      exact .bind fun w _ => .bind fun a ha => .bind fun b hb =>
        .some (Bool.and_eq_true_iff.mpr ⟨bounded?_fits ha, bounded?_fits hb⟩)
    | vvFromM1 | vvFromM2 => exact .bind fun _ _ => .bind fun _ hv => .some (bounded?_fits hv)
    | vvViewM1 | vvViewM2 => exact .bind fun _ _ => .bind fun _ hm => .some (validated?_fits hm)
    | m1ToBytes => exact .bind fun _ he => .bind fun _ _ => .bind fun _ _ => .some (event?_wf he)
    | umpToWords => exact .bind fun _ he => .bind fun _ _ => .some (event?_wf he)
    | sxFrame => exact .bind fun _ he => .some (sysExEvent?_wf he)

/-- A byte message is read as a wire form or as M1_FROMBYTES, which are well formed whatever their bits. -/
theorem decodeMidi1_wf (s : List Byte) (g : Option U4) : (decodeMidi1 s g).wf = true := by
  unfold decodeMidi1
  repeat' split
  all_goals rfl

/-- A word message is read as a wire form, SX_REASM_PUSH or UMP_FROMWORDS, which are well formed whatever their bits. -/
theorem decodeUmp_wf (ws : List Word) : (decodeUmp ws).wf = true := by
  unfold decodeUmp
  repeat' split
  all_goals rfl

theorem decodeCommand_wf {op : Byte} {os : List Operand} {i : Instr} (h : decodeCommand op os = .ok i) : i.wf = true := by
  unfold decodeCommand at h
  split at h
  · cases h
  · rename_i o _
    split at h
    · cases h
    · rename_i j hj
      cases h
      exact decodeOperands_answersWf o os i hj

/-- Settles O4: a command's operands passed their type checks, and a received message is well formed whatever its bits. -/
theorem decodedInstructionsAreWellTyped : Obligations.DecodedInstructionsAreWellTyped := by
  unfold Obligations.DecodedInstructionsAreWellTyped
  intro input i h
  cases input with
  | command op os => exact decodeCommand_wf h
  | midi1 s g => cases h; exact decodeMidi1_wf s g
  | ump ws => cases h; exact decodeUmp_wf ws

end Sys2Proof

namespace Sys2Proof.Machine

/-! ## The invariant, part by part (R82, R83, R523, R72) -/

/-- What the invariant asks of `SEG` under the bound `P_SX_MAX`. -/
structure SegContext.Inv (bound : Option Nat) (c : SegContext) : Prop where
  len : c.len = c.data.length
  pos : c.active = true → c.pos < c.len ∧ c.pos % 6 = 0
  idle : c.active = false → c = SegContext.idle
  capacity : withinBound bound c.len

/-- What the invariant asks of one `RA[g]` under the bound `P_SX_MAX`. -/
structure ReasmContext.Inv (bound : Option Nat) (c : ReasmContext) : Prop where
  idle : c.active = false → c.buf = []
  capacity : withinBound bound c.buf.length

/-- What the invariant asks of a response under the bound `P_SX_MAX`. -/
def Response.wf (bound : Option Nat) : Response → Prop
  | .ok v => v.wf bound
  | .error k => k = .refusedCapacity → bound ≠ none

/-- What R13 asks of `P_SX_MAX`. -/
def BoundOk (bound : Option Nat) : Prop := ∀ m, bound = some m → 6 ≤ m

/-- The invariant of a state is that of its four parts. -/
theorem State.inv_iff (s : State) : s.Inv ↔ s.seg.Inv s.pSxMax ∧ (∀ g, (s.raOf g).Inv s.pSxMax) ∧
    (∀ r, s.response = some r → r.wf s.pSxMax) ∧ BoundOk s.pSxMax := by
  constructor
  · intro h
    refine ⟨⟨h.segLen, h.segPos, h.segIdle, h.segCapacity⟩, fun g => ⟨h.raIdle g, h.raCapacity g⟩, ?_, h.capacity⟩
    intro r hr
    cases r with
    | ok v => exact h.result v hr
    | error k => rintro rfl; exact h.refusal hr
  · rintro ⟨hseg, hra, hr, hb⟩
    exact {
      segLen := hseg.len, segPos := hseg.pos, segIdle := hseg.idle, segCapacity := hseg.capacity
      raIdle := fun g => (hra g).idle, raCapacity := fun g => (hra g).capacity, capacity := hb
      result := fun _ h => hr _ h, refusal := fun h => hr _ h rfl }

theorem withinBound_zero (bound : Option Nat) : withinBound bound 0 := fun _ _ => Nat.zero_le _

/-- R13: a whole packet's data is within every admitted bound. -/
theorem BoundOk.withinBound {bound : Option Nat} (h : BoundOk bound) {n : Nat} (hn : n ≤ 6) : withinBound bound n :=
  fun m hm => hn.trans (h m hm)

theorem SegContext.idle_inv (bound : Option Nat) : SegContext.idle.Inv bound :=
  ⟨rfl, nofun, fun _ => rfl, withinBound_zero bound⟩

theorem ReasmContext.idle_inv (bound : Option Nat) : ReasmContext.idle.Inv bound :=
  ⟨fun _ => rfl, withinBound_zero bound⟩

theorem ReasmContext.active_inv {bound : Option Nat} {b : List U7} (h : withinBound bound b.length) :
    ReasmContext.Inv bound { active := true, buf := b } := ⟨nofun, h⟩

/-- Settles O12: the contexts are idle, no response stands on the port and no bound is fixed. -/
theorem invariantHoldsAtReset : Obligations.InvariantHoldsAtReset := by
  unfold Obligations.InvariantHoldsAtReset
  exact (State.inv_iff _).mpr ⟨SegContext.idle_inv _, fun g => by simpa using ReasmContext.idle_inv _, nofun, nofun⟩

/-! ## Writes that keep the invariant -/

theorem State.Inv.withPort {s : State} (h : s.Inv) (p : List Input) : (s.withPort p).Inv :=
  (State.inv_iff _).mpr ((State.inv_iff s).mp h)

theorem State.Inv.withResponse {s : State} (h : s.Inv) {r : Response} (hr : r.wf s.pSxMax) : (s.withResponse r).Inv := by
  obtain ⟨hseg, hra, -, hb⟩ := (State.inv_iff s).mp h
  refine (State.inv_iff _).mpr ⟨hseg, hra, ?_, hb⟩
  rintro _ ⟨⟩
  exact hr

theorem State.Inv.setSeg {s : State} (h : s.Inv) {c : SegContext} (hc : c.Inv s.pSxMax) : (s.setSeg c).Inv := by
  obtain ⟨-, hra, hr, hb⟩ := (State.inv_iff s).mp h
  exact (State.inv_iff _).mpr ⟨hc, hra, hr, hb⟩

theorem State.Inv.setRa {s : State} (h : s.Inv) (g : U4) {c : ReasmContext} (hc : c.Inv s.pSxMax) : (s.setRa g c).Inv := by
  obtain ⟨hseg, hra, hr, hb⟩ := (State.inv_iff s).mp h
  refine (State.inv_iff _).mpr ⟨hseg, fun g' => ?_, hr, hb⟩
  by_cases hg : g' = g
  · subst hg
    rw [State.raOf_setRa_same]
    exact hc
  · rw [State.raOf_setRa_ne s c hg]
    exact hra g'

theorem State.Inv.clearAllRa {s : State} (h : s.Inv) : s.clearAllRa.Inv := by
  obtain ⟨hseg, -, hr, hb⟩ := (State.inv_iff s).mp h
  exact (State.inv_iff _).mpr ⟨hseg, fun g => by simpa using ReasmContext.idle_inv _, hr, hb⟩

/-! ## One packet (R81, R521) -/

/-- Writing back what stands in `RA[g]` changes nothing. -/
theorem State.setRa_self {s : State} {g : U4} {c : ReasmContext} (h : s.raOf g = c) : s.setRa g c = s := by
  subst h
  simp [State.setRa, State.raOf]

/-- In every state with this bound and this context of group `g`, `run` leaves the context as `c`, answers `r` and changes
nothing else; and where the bound and the context are those of the invariant, so are `c` and `r`. -/
structure OwnContextOnly (bound : Option Nat) (own : ReasmContext) (g : U4) (run : State → Answer) (c : ReasmContext)
    (r : Response) : Prop where
  next : ∀ s, s.pSxMax = bound → s.raOf g = own → run s = .next ((s.setRa g c).withResponse r)
  keeps : BoundOk bound → own.Inv bound → c.Inv bound ∧ r.wf bound

/-- A packet that changes no context. -/
theorem OwnContextOnly.unchanged {bound : Option Nat} {own : ReasmContext} {g : U4} {run : State → Answer} {r : Response}
    (h : ∀ s, s.pSxMax = bound → s.raOf g = own → run s = .next (s.withResponse r)) (hr : BoundOk bound → r.wf bound) :
    OwnContextOnly bound own g run own r :=
  ⟨fun s hb ho => by rw [State.setRa_self ho]; exact h s hb ho, fun hb hi => ⟨hi, hr hb⟩⟩

/-- A packet that clears its context. -/
theorem OwnContextOnly.cleared {bound : Option Nat} {own : ReasmContext} {g : U4} {run : State → Answer} {r : Response}
    (h : ∀ s, s.pSxMax = bound → s.raOf g = own → run s = .next ((s.clearRa g).withResponse r)) (hr : r.wf bound) :
    OwnContextOnly bound own g run ReasmContext.idle r :=
  ⟨h, fun _ _ => ⟨ReasmContext.idle_inv bound, hr⟩⟩

theorem packetBytes_length_le {p : Packet} (h : bodyValid p = true) : (packetBytes p).length ≤ 6 := by
  simp only [bodyValid, Bool.and_eq_true, decide_eq_true_eq, Config.packetCapacity] at h
  rw [packetBytes, List.length_map, countedSlots_length h.1.2]
  exact h.1.2

/-- A packet that would make its message longer than the bound is refused, and its context cleared (R523). -/
theorem pushValid_beyond_ownContextOnly {bound : Option Nat} {own : ReasmContext} (g : U4) {st : PacketStatus}
    {b : List U7} (hact : own.active = true) (hst : st = .cont ∨ st = .fin)
    (hcap : ¬ withinBound bound (own.buf.length + b.length)) :
    OwnContextOnly bound own g (pushValid · g st b) ReasmContext.idle (.error .refusedCapacity) := by
  refine .cleared (fun s hs ho => ?_) ?_
  · exact pushValid_active_beyond b (by rw [ho, hact]) hst (by rwa [withinCapacity_eq_false, hs, ho])
  · rintro - rfl
    exact hcap nofun

/-- The rows of R521 read and write the packet's own context only. -/
theorem pushValid_ownContextOnly (bound : Option Nat) (own : ReasmContext) (g : U4) (st : PacketStatus) {b : List U7}
    (hb6 : b.length ≤ 6) : ∃ c r, OwnContextOnly bound own g (pushValid · g st b) c r := by
  cases hact : own.active with
  | false =>
    cases st with
    | complete =>
      exact ⟨_, _, .unchanged (fun s _ ho => pushValid_idle_complete b (by rw [ho, hact])) fun hb => hb.withinBound hb6⟩
    | start =>
      exact ⟨_, _, fun s _ ho => pushValid_idle_start b (by rw [ho, hact]),
        fun hb _ => ⟨ReasmContext.active_inv (hb.withinBound hb6), trivial⟩⟩
    | cont => exact ⟨_, _, .unchanged (fun s _ ho => pushValid_idle_cont b (by rw [ho, hact])) fun _ => nofun⟩
    | fin => exact ⟨_, _, .unchanged (fun s _ ho => pushValid_idle_fin b (by rw [ho, hact])) fun _ => nofun⟩
  | true =>
    cases st with
    | complete => exact ⟨_, _, .cleared (fun s _ ho => pushValid_active_complete b (by rw [ho, hact])) nofun⟩
    | start => exact ⟨_, _, .cleared (fun s _ ho => pushValid_active_start b (by rw [ho, hact])) nofun⟩
    | cont =>
      by_cases hcap : withinBound bound (own.buf.length + b.length)
      · refine ⟨{ active := true, buf := own.buf ++ b }, .ok (.reasmOut .none), fun s hs ho => ?_, fun _ _ => ⟨?_, trivial⟩⟩
        · rw [pushValid_active_cont b (by rw [ho, hact]) (by rwa [withinCapacity_iff, hs, ho]), ho]
        · exact ReasmContext.active_inv (by rwa [List.length_append])
      · exact ⟨_, _, pushValid_beyond_ownContextOnly g hact (.inl rfl) hcap⟩
    | fin =>
      by_cases hcap : withinBound bound (own.buf.length + b.length)
      · refine ⟨_, .ok (.reasmOut (.message g (own.buf ++ b))), .cleared (fun s hs ho => ?_) ?_⟩
        · rw [pushValid_active_fin b (by rw [ho, hact]) (by rwa [withinCapacity_iff, hs, ho]), ho]
        · change withinBound bound (own.buf ++ b).length
          rwa [List.length_append]
      · exact ⟨_, _, pushValid_beyond_ownContextOnly g hact (.inr rfl) hcap⟩

/-- R81: a packet reads and writes the context of its own group only. -/
theorem pushPacket_ownContextOnly (bound : Option Nat) (own : ReasmContext) (p : Packet) :
    ∃ c r, OwnContextOnly bound own (groupOf p.w1) (pushPacket · p) c r := by
  by_cases h3 : msgType p.w1 = 0x3#4
  · cases hv : bodyValid p with
    | false => exact ⟨_, _, .cleared (fun s _ _ => pushPacket_invalid h3 hv) nofun⟩
    | true =>
      have hp : packetValid p = true := by simp [packetValid, h3, hv]
      obtain ⟨st, hst⟩ := packetValid_status hp
      simp only [pushPacket_valid hp hst]
      exact pushValid_ownContextOnly bound own _ st (packetBytes_length_le hv)
  · exact ⟨_, _, .unchanged (fun s _ _ => pushPacket_otherType h3) fun _ => nofun⟩

/-- Settles O47: what a packet leaves in its own context and what it answers are the same in both states, since they come
from its own context and the bound alone. -/
theorem groupsAreIsolated : Obligations.GroupsAreIsolated := by
  unfold Obligations.GroupsAreIsolated
  intro p g s s' hg hra hmax
  obtain rfl : groupOf p.w1 = g := BitVec.eq_of_toNat_eq ((grp_eq p).symm.trans hg)
  obtain ⟨c, r, hnext, -⟩ := pushPacket_ownContextOnly s.pSxMax (s.raOf (groupOf p.w1)) p
  refine ⟨_, _, hnext s rfl rfl, hnext s' hmax.symm hra.symm, rfl, by simp, fun h hne => ?_⟩
  simp [State.raOf_setRa_ne _ c hne]

theorem State.Inv.pushPacket {s t : State} {p : Packet} (h : s.Inv) (hp : pushPacket s p = .next t) : t.Inv := by
  obtain ⟨-, hra, -, hb⟩ := (State.inv_iff s).mp h
  obtain ⟨c, r, hnext, hkeeps⟩ := pushPacket_ownContextOnly s.pSxMax (s.raOf (groupOf p.w1)) p
  obtain ⟨hc, hr⟩ := hkeeps hb (hra _)
  obtain rfl := next_inj ((hnext s rfl rfl).symm.trans hp)
  exact (h.setRa _ hc).withResponse hr

/-! ## The segmenter keeps the invariant (R510, R511) -/

theorem segLoaded_inv {bound : Option Nat} {d : List U7} (g : U4) (h : withinBound bound d.length) :
    (segLoaded d g).Inv bound := by
  by_cases hd : d = []
  · subst hd
    exact SegContext.idle_inv bound
  · rw [segLoaded_of_ne g hd]
    exact ⟨rfl, fun _ => ⟨List.length_pos_iff.mpr hd, Nat.zero_mod _⟩, nofun, h⟩

/-- A stride that does not reach the end has six bytes, so the position stays a multiple of six. -/
theorem segAdvanced_inv {bound : Option Nat} {c : SegContext} (h : c.Inv bound) (hact : c.active = true) :
    (segAdvanced c).Inv bound := by
  obtain ⟨hlt, hmod⟩ := h.pos hact
  by_cases hlast : c.pos + min 6 (c.len - c.pos) = c.len
  · rw [segAdvanced_last hlast]
    exact SegContext.idle_inv bound
  · rw [segAdvanced_more hlast]
    have hpos : c.pos + min 6 (c.len - c.pos) < c.len ∧ (c.pos + min 6 (c.len - c.pos)) % 6 = 0 := by omega
    exact ⟨h.len, fun _ => hpos, fun hidle => absurd (hact.symm.trans hidle) nofun, h.capacity⟩

theorem State.Inv.returnOk {s t : State} {v : Result} (h : s.Inv) (hv : v.wf s.pSxMax)
    (hr : returnOk s v = .next t) : t.Inv := by
  obtain rfl := next_inj hr
  exact h.withResponse hv

theorem State.Inv.segLoad {s t : State} {d : List U7} {g : U4} (h : s.Inv) (hx : execSxSegLoad d g s = .next t) :
    t.Inv := by
  cases hc : s.withinCapacity d.length with
  | true =>
    obtain rfl := next_inj ((execSxSegLoad_within g hc).symm.trans hx)
    exact (h.setSeg (segLoaded_inv g ((withinCapacity_iff s _).mp hc))).withResponse trivial
  | false =>
    obtain rfl := next_inj ((execSxSegLoad_beyond g hc).symm.trans hx)
    refine h.withResponse fun _ hunbounded => (withinCapacity_eq_false s _).mp hc ?_
    rw [hunbounded]
    exact nofun

theorem State.Inv.segNext {s t : State} (h : s.Inv) (hx : execSxSegNext s = .next t) : t.Inv := by
  obtain ⟨hseg, -⟩ := (State.inv_iff s).mp h
  cases hact : s.seg.active with
  | true =>
    obtain rfl := next_inj ((execSxSegNext_active hact).symm.trans hx)
    exact (h.setSeg (segAdvanced_inv hseg hact)).withResponse trivial
  | false =>
    obtain rfl := next_inj ((execSxSegNext_idle hact).symm.trans hx)
    exact h.withResponse trivial

/-! ## The reassembler's reset keeps the invariant (R522) -/

theorem State.Inv.reasmReset {s t : State} {sel : Option ReasmSel} (h : s.Inv)
    (hx : execSxReasmReset sel s = .next t) : t.Inv := by
  unfold execSxReasmReset at hx
  split at hx
  · exact h.clearAllRa.returnOk (v := .none) trivial hx
  · exact (h.setRa _ (ReasmContext.idle_inv _)).returnOk (v := .none) trivial hx

/-! ## Computed results have their type (R55, R57, R72) -/

/-- A computation gives a value with `P`, or fails with an error other than REFUSED_CAPACITY. -/
def Yields {α : Type} (P : α → Prop) : Except ErrorKind α → Prop
  | .ok a => P a
  | .error k => k ≠ .refusedCapacity

section Yields

variable {α β : Type} {P : α → Prop} {Q : β → Prop} {x : Except ErrorKind α}

theorem Yields.bind {f : α → Except ErrorKind β} (hx : Yields P x) (hf : ∀ a, P a → Yields Q (f a)) :
    Yields Q (x >>= f) := by
  cases x with
  | ok a => exact hf a hx
  | error k => exact hx

theorem Yields.map {f : α → β} (hx : Yields P x) (hf : ∀ a, P a → Q (f a)) : Yields Q (x.map f) := by
  cases x with
  | ok a => exact hf a hx
  | error k => exact hx

theorem Yields.of_error {k : ErrorKind} (hk : k ≠ .refusedCapacity) (h : ∀ k', x = .error k' → k' = k) :
    Yields (fun _ => True) x := by
  cases x with
  | ok a => trivial
  | error k' => exact h k' rfl ▸ hk

theorem Yields.unless {c : Prop} [Decidable c] {k : ErrorKind} (hk : k ≠ .refusedCapacity) (h : ¬ c → Yields P x) :
    Yields P (if c then .error k else x) := by
  split
  · exact hk
  · exact h ‹_›

theorem Yields.when {c : Prop} [Decidable c] {k : ErrorKind} (hk : k ≠ .refusedCapacity) (h : c → Yields P x) :
    Yields P (if c then x else .error k) := by
  split
  · exact h ‹_›
  · exact hk

/-- A field whose width is its whole type contributes only its errors. -/
theorem Yields.field {f : α → Except ErrorKind β} (hx : Yields (fun _ => True) x) (hf : ∀ a, Yields Q (f a)) :
    Yields Q (x >>= f) := hx.bind fun a _ => hf a

end Yields

theorem State.Inv.answer {s t : State} {x : Except ErrorKind Result} (h : s.Inv) (hx : Yields (Result.wf s.pSxMax) x)
    (ha : answer s x = .next t) : t.Inv := by
  obtain rfl := next_inj ((answer_eq s x).symm.trans ha)
  cases x with
  | ok v => exact h.withResponse hx
  | error k => exact h.withResponse fun hk => absurd hk hx

theorem State.Inv.answer_event {s t : State} {x : Except ErrorKind Event} (h : s.Inv)
    (ha : Machine.answer s (x.map .event) = .next t) (hx : Yields (·.wf = true) x) : t.Inv :=
  h.answer (hx.map (f := Result.event) fun _ he => he) ha

/-! ### Bounded integers and validated values -/

theorem inRange_yields (bound : Option Nat) (w : Width) (v : Int) : Yields (Result.wf bound) (inRange w v) :=
  .unless nofun fun h => by
    change v.toNat ≤ w.max
    omega

theorem exact_wf (bound : Option Nat) (w : Width) (v : Int) :
    (Result.exact w (if v < 0 ∨ (w.max : Int) < v then none else some v.toNat)).wf bound := by
  rintro x hx
  split at hx
  · cases hx
  · cases hx
    change v.toNat ≤ w.max
    omega

theorem clamp_wf (bound : Option Nat) (w : Width) (v : Int) :
    (Result.bounded w (min (max v 0) (w.max : Int)).toNat).wf bound := by
  change _ ≤ w.max
  omega

theorem trunc_wf (bound : Option Nat) (w : Width) (v : Int) :
    (Result.bounded w (v % (2 ^ w.bits : Int)).toNat).wf bound := by
  have hpos : (0 : Int) < 2 ^ w.bits := by positivity
  have hcast : ((2 ^ w.bits : Nat) : Int) = 2 ^ w.bits := by push_cast; rfl
  have hlt := Int.emod_lt_of_pos v hpos
  change _ ≤ 2 ^ w.bits - 1
  omega

/-- A quotient or a remainder is no greater than the dividend. -/
theorem div_yields (bound : Option Nat) {w : Width} {a b r : Nat} (ha : w.fits a = true) (hr : r ≤ a) :
    Yields (Result.wf bound) (if b = 0 then .error .rangeError else .ok (.bounded w r)) :=
  .unless nofun fun _ => hr.trans ((fits_iff w a).mp ha)

/-! ### EV_MAKE -/

theorem rangeField_yields (n : Nat) (lo hi v : Int) : Yields (fun _ => True) (rangeField n lo hi v) :=
  .unless nofun fun _ => trivial

theorem uField_yields (n : Nat) (v : Int) : Yields (fun _ => True) (uField n v) := rangeField_yields n _ _ v

theorem uFieldOr0_yields (n : Nat) (v : Option Int) : Yields (fun _ => True) (uFieldOr0 n v) := by
  cases v with
  | none => trivial
  | some v => exact uField_yields n v

theorem numberValue_yields (n : RawNumber) : Yields (fun _ => True) (numberValue n) := by
  cases n with
  | raw v => exact uField_yields 7 v
  | typed n => trivial

theorem rawMagnitude_yields (t : VType) (v : RawValue) : Yields (fun _ => True) (rawMagnitude t v) := by
  cases v with
  | m1 v => exact .unless nofun fun _ => trivial
  | m2 x => exact .unless nofun fun _ => trivial

theorem rawValueField_yields (n : Nat) (t : VType) (v : RawValue) : Yields (fun _ => True) (rawValueField n t v) :=
  (rawMagnitude_yields t v).map fun _ _ => trivial

theorem bankValue_yields (b : Option RawBank) : Yields (fun _ => True) (bankValue b) := by
  obtain _ | _ | ⟨msb, lsb⟩ := b
  · trivial
  · trivial
  · exact (uField_yields 7 msb).field fun _ => (uField_yields 7 lsb).field fun _ => trivial

/-- R70: a one-byte manufacturer ID is checked against its range. -/
theorem manufacturerId_yields (id : Int) :
    Yields (fun x => (ManufacturerId.one x).wf = true) (rangeField 7 0x01 0x7D id) :=
  .unless nofun fun h => by
    have hid : (BitVec.ofNat 7 id.toNat).toNat = id.toNat := by
      rw [BitVec.toNat_ofNat, Nat.mod_eq_of_lt (by omega)]
    change ManufacturerId.wf (.one _) = true
    simp only [ManufacturerId.wf, Bool.and_eq_true, decide_eq_true_eq, hid]
    omega

theorem manufacturerValue_yields (m : RawManufacturer) : Yields (·.wf = true) (manufacturerValue m) := by
  cases m with
  | one id => exact (manufacturerId_yields id).map fun _ h => h
  | three b1 b2 => exact (uField_yields 7 b1).field fun _ => (uField_yields 7 b2).field fun _ => rfl

theorem dataField_yields (vs : List Int) : Yields (fun _ => True) (dataField vs) := by
  induction vs with
  | nil => trivial
  | cons v vs ih => exact (uField_yields 7 v).field fun _ => ih.field fun _ => trivial

theorem buildEvent_yields (raw : RawEvent) : Yields (·.wf = true) (buildEvent raw) := by
  cases raw with
  | noteOff | noteOn =>
    exact (uField_yields 4 _).field fun _ => (uField_yields 4 _).field fun _ => (numberValue_yields _).field fun _ =>
      (rawValueField_yields 16 .vel _).field fun _ => (uFieldOr0_yields 8 _).field fun _ =>
        (uFieldOr0_yields 16 _).field fun _ => rfl
  | polyPressure | controlChange =>
    exact (uField_yields 4 _).field fun _ => (uField_yields 4 _).field fun _ => (numberValue_yields _).field fun _ =>
      (rawValueField_yields 32 _ _).field fun _ => rfl
  | programChange =>
    exact (uField_yields 4 _).field fun _ => (uField_yields 4 _).field fun _ => (uField_yields 7 _).field fun _ =>
      (bankValue_yields _).field fun _ => rfl
  | channelPressure | pitchBend =>
    exact (uField_yields 4 _).field fun _ => (uField_yields 4 _).field fun _ =>
      (rawValueField_yields 32 _ _).field fun _ => rfl
  | pncRegistered | pncAssignable =>
    exact (uField_yields 4 _).field fun _ => (uField_yields 4 _).field fun _ => (numberValue_yields _).field fun _ =>
      (uField_yields 8 _).field fun _ => (uField_yields 32 _).field fun _ => rfl
  | tuneRequest => exact (uField_yields 4 _).field fun _ => rfl
  | sysex7 =>
    exact (uField_yields 4 _).field fun _ => (manufacturerValue_yields _).bind fun _ hm =>
      (dataField_yields _).field fun _ => hm
  | universalSysex7 =>
    exact (uField_yields 4 _).field fun _ => (uField_yields 7 _).field fun _ => (uField_yields 7 _).field fun _ =>
      (uField_yields 7 _).field fun _ => (dataField_yields _).field fun _ => rfl

/-! ### Decoders -/

theorem malformed_yields : Yields (·.wf = true) (.error .malformedWireData : Except ErrorKind Event) := nofun

theorem with7_yields {b : Byte} {e : Event} (he : e.wf = true) : Yields (·.wf = true) (with7 b e) :=
  .when nofun fun _ => he

theorem with7x2_yields {b c : Byte} {e : Event} (he : e.wf = true) : Yields (·.wf = true) (with7x2 b c e) :=
  .when nofun fun _ => he

/-- The lead byte of a one-byte manufacturer ID is neither 0x00 nor above 0x7D (R70, R501). -/
theorem parseLead_yields (g : U4) (b : U7) (rest : List U7) : Yields (·.wf = true) (parseLead g b rest) := by
  unfold parseLead
  split
  · split
    · rfl
    · exact malformed_yields
  · rename_i hb
    split
    · rename_i hmax
      have hmin : 0x01 ≤ b.toNat := Nat.one_le_iff_ne_zero.mpr fun h0 => hb (BitVec.eq_of_toNat_eq h0)
      exact Bool.and_eq_true_iff.mpr ⟨decide_eq_true hmin, decide_eq_true hmax⟩
    · split
      · rfl
      · exact malformed_yields

theorem parse_yields (d : List Byte) (g : U4) : Yields (·.wf = true) (parse d g) := by
  refine .when nofun fun _ => ?_
  split
  · exact malformed_yields
  · exact parseLead_yields g _ _

theorem sysexOfBytes_yields (g : U4) (rest : List Byte) : Yields (·.wf = true) (sysexOfBytes g rest) :=
  .when nofun fun _ => .when nofun fun _ => parse_yields _ g

theorem channel3OfBytes_yields (g : U4) (b0 d1 d2 : Byte) : Yields (·.wf = true) (channel3OfBytes g b0 d1 d2) := by
  unfold channel3OfBytes
  split
  iterate 5 exact with7x2_yields rfl
  exact malformed_yields

theorem channel2OfBytes_yields (g : U4) (b0 d1 : Byte) : Yields (·.wf = true) (channel2OfBytes g b0 d1) := by
  unfold channel2OfBytes
  split
  iterate 2 exact with7_yields rfl
  exact malformed_yields

theorem fromBytes_yields (m : List Byte) (g : U4) : Yields (·.wf = true) (fromBytes m g) := by
  unfold fromBytes
  split
  · exact malformed_yields
  · split
    · split
      · exact channel3OfBytes_yields g _ _ _
      · exact malformed_yields
    · split
      · split
        · exact channel2OfBytes_yields g _ _
        · exact malformed_yields
      · split
        · split
          · rfl
          · exact malformed_yields
        · exact .when nofun fun _ => sysexOfBytes_yields g _

theorem mt1OfWord_yields (w : Word) : Yields (·.wf = true) (mt1OfWord w) := .when nofun fun _ => rfl

theorem mt2OfWord_yields (w : Word) : Yields (·.wf = true) (mt2OfWord w) := by
  unfold mt2OfWord
  split
  iterate 4 exact with7x2_yields rfl
  iterate 2 exact with7_yields rfl
  exact with7x2_yields rfl
  exact malformed_yields

theorem mt4ProgramChange_yields (g ch : U4) (r o p r2 m l : Byte) :
    Yields (·.wf = true) (mt4ProgramChange g ch r o p r2 m l) := by
  unfold mt4ProgramChange
  split
  · exact .when nofun fun _ => rfl
  · exact with7_yields rfl

theorem mt4OfWords_yields (w1 w2 : Word) : Yields (·.wf = true) (mt4OfWords w1 w2) := by
  unfold mt4OfWords
  split
  iterate 6 exact with7_yields rfl
  exact mt4ProgramChange_yields _ _ _ _ _ _ _ _
  iterate 2 rfl
  exact malformed_yields

theorem unchunk_yields (ps : List Packet) : Yields (fun _ => True) (unchunk ps) :=
  .of_error (k := .malformedWireData) nofun fun _ => unchunk_error

theorem sysexOfPackets_yields (ps : List Packet) (g : U4) : Yields (·.wf = true) (sysexOfPackets ps g) :=
  .when nofun fun _ => (unchunk_yields ps).field fun _ => parse_yields _ g

theorem fromWords_yields (ws : List Word) : Yields (·.wf = true) (fromWords ws) := by
  unfold fromWords
  split
  · exact malformed_yields
  · split
    · exact .when nofun fun _ => mt1OfWord_yields _
    · exact .when nofun fun _ => mt2OfWord_yields _
    · exact .when nofun fun _ => sysexOfPackets_yields _ _
    · split
      · exact mt4OfWords_yields _ _
      · exact malformed_yields
    · exact malformed_yields

/-! ### Encoders -/

theorem toBytes_yields (e : Event) (incStart incEnd : Bool) : Yields (fun _ => True) (toBytes e incStart incEnd) :=
  .of_error (k := .unsupportedProtocolCombination) nofun fun _ => toBytes_error

theorem toWords_yields (e : Event) (p : Protocol) : Yields (fun _ => True) (toWords e p) :=
  .of_error (k := .unsupportedProtocolCombination) nofun fun _ => toWords_error

/-! ## Every step (R82, R83, R523, R72) -/

theorem State.Inv.exec {i : Instr} {s t : State} (h : s.Inv) (hx : exec i s = .next t) : t.Inv := by
  cases i with
  | biFail w v => exact h.answer (inRange_yields _ w v) hx
  | biExact w v => exact h.returnOk (exact_wf _ w v) hx
  | biClamp w v => exact h.returnOk (clamp_wf _ w v) hx
  | biTrunc w v => exact h.returnOk (trunc_wf _ w v) hx
  | biAdd w | biSub w | biMul w => exact h.answer (inRange_yields _ w _) (atBoundary_next hx).2
  | biDiv w a b =>
    obtain ⟨htyped, hx⟩ := atBoundary_next hx
    exact h.answer (div_yields _ (Bool.and_eq_true_iff.mp htyped).1 (Nat.div_le_self a b)) hx
  | biRem w a b =>
    obtain ⟨htyped, hx⟩ := atBoundary_next hx
    exact h.answer (div_yields _ (Bool.and_eq_true_iff.mp htyped).1 (Nat.mod_le a b)) hx
  | biCmp => exact h.returnOk (v := .cmp _) trivial (atBoundary_next hx).2
  | vvFromM1 t v =>
    obtain ⟨htyped, hx⟩ := atBoundary_next hx
    exact h.returnOk (v := .validated t _) (magOfM1_le t ((fits_iff _ v).mp htyped)) hx
  | vvFromM2 t x =>
    obtain ⟨htyped, hx⟩ := atBoundary_next hx
    exact h.returnOk (v := .validated t x) ((fits_iff _ x).mp htyped) hx
  | vvViewM1 t mag =>
    obtain ⟨htyped, hx⟩ := atBoundary_next hx
    exact h.returnOk (v := .bounded _ _) (viewM1_le t ((fits_iff _ mag).mp htyped)) hx
  | vvViewM2 t mag =>
    obtain ⟨htyped, hx⟩ := atBoundary_next hx
    exact h.returnOk (v := .bounded _ mag) ((fits_iff _ mag).mp htyped) hx
  | evMake raw => exact h.answer_event hx (buildEvent_yields raw)
  | m1ToBytes =>
    exact h.answer ((toBytes_yields _ _ _).map (f := Result.bytes) fun _ _ => trivial) (atBoundary_next hx).2
  | umpToWords =>
    exact h.answer ((toWords_yields _ _).map (f := Result.words) fun _ _ => trivial) (atBoundary_next hx).2
  | m1FromBytes m g => exact h.answer_event hx (fromBytes_yields m _)
  | umpFromWords ws => exact h.answer_event hx (fromWords_yields ws)
  | sxFrame e => exact h.returnOk (v := .data _) trivial (atBoundary_next hx).2
  | sxParse d g => exact h.answer_event hx (parse_yields d g)
  | sxChunk => exact h.returnOk (v := .packets _) trivial hx
  | sxUnchunk ps => exact h.answer ((unchunk_yields ps).map (f := Result.data) fun _ _ => trivial) hx
  | sxSegLoad => exact h.segLoad hx
  | sxSegNext => exact h.segNext hx
  | sxReasmReset => exact h.reasmReset hx
  | hexFormat => exact h.returnOk (v := .bytes _) trivial hx
  | reset => exact (h.setSeg (SegContext.idle_inv _)).clearAllRa.returnOk (v := .none) trivial hx
  | m1NoteOff | m1NoteOn | m1PolyPressure | m1ControlChange | m1PitchBend | ump2NoteOff | ump2NoteOn
  | ump2PolyPressure | ump2ControlChange | ump2PitchBend => exact h.answer_event hx (with7x2_yields rfl)
  | m1ProgramChange | m1ChannelPressure | ump2ProgramChange | ump2ChannelPressure | ump4PncRegistered
  | ump4PncAssignable | ump4NoteOff | ump4NoteOn | ump4PolyPressure | ump4ControlChange =>
    exact h.answer_event hx (with7_yields rfl)
  | m1TuneRequest | ump1TuneRequest => exact h.returnOk (v := .event (.tuneRequest _)) rfl hx
  | ump4ChannelPressure g ch r a => exact h.returnOk (v := .event (.channelPressure g ch a)) rfl hx
  | ump4PitchBend g ch r v => exact h.returnOk (v := .event (.pitchBend g ch v)) rfl hx
  | m1Sysex => exact h.answer_event hx (sysexOfBytes_yields _ _)
  | ump4ProgramChange => exact h.answer_event hx (mt4ProgramChange_yields _ _ _ _ _ _ _ _)
  | sxReasmPush | ump3Complete | ump3Start | ump3Continue | ump3End => exact h.pushPacket hx

/-- Settles O13: an idle step changes nothing, and every instruction keeps the invariant. -/
theorem everyStepKeepsTheInvariant : Obligations.EveryStepKeepsTheInvariant := by
  unfold Obligations.EveryStepKeepsTheInvariant
  intro s t hs hstep
  rcases step_next hstep with ⟨-, rfl⟩ | ⟨input, rest, i, -, -, hx⟩
  · exact hs
  · exact (hs.withPort rest).exec hx

end Sys2Proof.Machine
end

section
/-! PROOFS. 20_memory.md: a step executes the oldest input; an instruction without a side effect reads and writes no context,
so it answers the same everywhere and commutes with every other. -/

namespace Sys2Proof.Machine

/-! ## Steps (R112) -/

/-- Settles O1: with the oldest input decoded, a step is the execution of the instruction. -/
theorem stepRunsTheDecodedInstruction : Obligations.StepRunsTheDecodedInstruction := by
  unfold Obligations.StepRunsTheDecodedInstruction
  intro s input rest i hport hdec
  exact step_exec hport hdec

/-- Settles O2: the two other ends of a step, the idle one and the refusal at the command boundary. -/
theorem stepIsIdleOrRefusesByName : Obligations.StepIsIdleOrRefusesByName := by
  unfold Obligations.StepIsIdleOrRefusesByName
  exact fun s => ⟨step_idle, fun _ _ _ => step_refused⟩

/-! ## Instructions without a side effect (R109) -/

/-- `i` has one response, the same in every state, and changes nothing but the response port. -/
def AnswersEverywhere (i : Instr) : Prop := ∃ r, ∀ s, Answers i s r

/-- A result computed from the operands alone is the same in every state. -/
theorem AnswersEverywhere.of_answer {i : Instr} (x : Except ErrorKind Result) (h : ∀ s, exec i s = answer s x) :
    AnswersEverywhere i := ⟨responseOf x, fun s => answers_of_answer (h s)⟩

/-- So is one computed from operands that the command boundary checks, which lets well-typed ones through. -/
theorem AnswersEverywhere.of_boundary {i : Instr} {op : Byte} {typed : Bool} (ht : typed = true)
    (x : Except ErrorKind Result) (h : ∀ s, exec i s = atBoundary op typed (answer s x)) :
    AnswersEverywhere i := ⟨responseOf x, fun s => answers_of_boundary (h s) ht⟩

/-- R520: SX_REASM_PUSH has a side effect for a packet of message type 0x3 only. -/
theorem isPure_sxReasmPush_iff (w1 w2 : Word) : isPure (.sxReasmPush w1 w2) = true ↔ msgType w1 ≠ 0x3#4 := by
  rw [Ne, ← mt_eq_three ⟨w1, w2⟩]
  simp [isPure, effectOf, Packet.mt]

theorem answersEverywhere_of_isPure {i : Instr} (hp : isPure i = true) (hwf : i.wf = true) : AnswersEverywhere i := by
  cases i with
  | sxSegLoad | sxSegNext | reset | ump3Complete | ump3Start | ump3Continue | ump3End => cases hp
  | sxReasmReset sel => obtain _ | _ | g := sel <;> cases hp
  | sxReasmPush w1 w2 => exact ⟨_, fun _ => pushPacket_otherType ((isPure_sxReasmPush_iff w1 w2).mp hp)⟩
  | biExact | biClamp | biTrunc | sxChunk | hexFormat | m1TuneRequest | ump1TuneRequest | ump4ChannelPressure
  | ump4PitchBend => exact .of_answer (.ok _) fun _ => rfl
  | biAdd | biSub | biMul | biDiv | biRem | m1ToBytes | umpToWords => exact .of_boundary hwf _ fun _ => rfl
  | biCmp | vvFromM1 | vvFromM2 | vvViewM1 | vvViewM2 | sxFrame => exact .of_boundary hwf (.ok _) fun _ => rfl
  | _ => exact .of_answer _ fun _ => rfl

/-- Settles O52: every meaning without a side effect ends in a response computed from the operands alone. -/
theorem pureCommandsSeeAndChangeNothing : Obligations.PureCommandsSeeAndChangeNothing := by
  unfold Obligations.PureCommandsSeeAndChangeNothing
  exact fun i => answersEverywhere_of_isPure

/-! ## Order of execution (R113) -/

/-- `run` completes from `s`, in a next state that does not depend on the last response. -/
def CompletesFrom (s : State) (run : State → Answer) : Prop := ∃ t, ∀ q, run { s with response := q } = .next t

theorem pushPacket_completesFrom (s : State) (p : Packet) : CompletesFrom s (pushPacket · p) := by
  obtain ⟨c, r, hnext, -⟩ := pushPacket_ownContextOnly s.pSxMax (s.raOf (groupOf p.w1)) p
  exact ⟨(s.setRa (groupOf p.w1) c).withResponse r, fun q => hnext _ rfl rfl⟩

theorem execSxSegLoad_completesFrom (s : State) (d : List U7) (g : U4) : CompletesFrom s (execSxSegLoad d g) := by
  cases hc : s.withinCapacity d.length with
  | true => exact ⟨(s.setSeg _).withResponse _, fun q => execSxSegLoad_within (s := { s with response := q }) g hc⟩
  | false => exact ⟨s.withResponse _, fun q => execSxSegLoad_beyond (s := { s with response := q }) g hc⟩

theorem execSxSegNext_completesFrom (s : State) : CompletesFrom s execSxSegNext := by
  cases hact : s.seg.active with
  | true =>
    exact ⟨(s.setSeg (segAdvanced s.seg)).withResponse
        (.ok (.segOut (.packet (stride s.seg.data s.seg.group s.seg.pos)))),
      fun q => execSxSegNext_active (s := { s with response := q }) hact⟩
  | false => exact ⟨s.withResponse _, fun q => execSxSegNext_idle (s := { s with response := q }) hact⟩

theorem execSxReasmReset_completesFrom (s : State) (sel : Option ReasmSel) :
    CompletesFrom s (execSxReasmReset sel) := by
  obtain _ | _ | g := sel
  · exact ⟨s.clearAllRa.withResponse _, fun _ => rfl⟩
  · exact ⟨s.clearAllRa.withResponse _, fun _ => rfl⟩
  · exact ⟨(s.clearRa g).withResponse _, fun _ => rfl⟩

/-- Every well-formed instruction ends in one response, and none reads the response port. -/
theorem exec_completesFrom {i : Instr} (hwf : i.wf = true) (s : State) : CompletesFrom s (exec i) := by
  by_cases hp : isPure i = true
  · obtain ⟨r, hr⟩ := answersEverywhere_of_isPure hp hwf
    exact ⟨{ s with response := some r }, fun q => hr { s with response := q }⟩
  · cases i with
    | sxSegLoad d g => exact execSxSegLoad_completesFrom s d g
    | sxSegNext => exact execSxSegNext_completesFrom s
    | sxReasmPush | ump3Complete | ump3Start | ump3Continue | ump3End => exact pushPacket_completesFrom s _
    | sxReasmReset sel => exact execSxReasmReset_completesFrom s sel
    | reset => exact ⟨(s.setSeg _).clearAllRa.withResponse _, fun _ => rfl⟩
    | _ => exact absurd rfl hp

/-- Settles O53: `i` changes the response port only, which `j` does not read, and `i` answers after `j` as it does before. -/
theorem pureCommandsCommute : Obligations.PureCommandsCommute := by
  unfold Obligations.PureCommandsCommute
  intro i j s hp hi hj
  obtain ⟨r, hr⟩ := answersEverywhere_of_isPure hp hi
  obtain ⟨t, ht⟩ := exec_completesFrom hj s
  exact ⟨_, t, t, _, hr s, ht (some r), ht s.response, hr t, rfl, rfl, rfl, rfl⟩

end Sys2Proof.Machine
end

section
/-! PROOFS. 30_encoding.md: the decoder undoes the encoder and drops no bit of a received message; exactly the opcodes of the
command map are commands; every well-typed instruction answers once; a decoder accepts whole messages of the admitted forms,
reads no reserved field of them, and the encoders emit what the classification table says. -/

namespace Sys2Proof

open Machine

/-! ## The encoder and the decoder (R130 to R155) -/

section RoundTrip

open Laws.RoundTrip

/-- The round trips of the 59 instructions as one statement: the layout of each one's own row is what its lemma shows. -/
theorem roundTrip (i : Instr) : Statement i :=
  match i with
  | .biFail .. => biFail _ _
  | .biExact .. => biExact _ _
  | .biClamp .. => biClamp _ _
  | .biTrunc .. => biTrunc _ _
  | .biAdd .. => biAdd _ _ _
  | .biSub .. => biSub _ _ _
  | .biMul .. => biMul _ _ _
  | .biDiv .. => biDiv _ _ _
  | .biRem .. => biRem _ _ _
  | .biCmp .. => biCmp _ _ _
  | .vvFromM1 .. => vvFromM1 _ _
  | .vvFromM2 .. => vvFromM2 _ _
  | .vvViewM1 .. => vvViewM1 _ _
  | .vvViewM2 .. => vvViewM2 _ _
  | .evMake .. => evMake _
  | .m1ToBytes .. => m1ToBytes _ _ _
  | .m1FromBytes .. => m1FromBytes _ _
  | .umpToWords .. => umpToWords _ _
  | .umpFromWords .. => umpFromWords _
  | .sxFrame .. => sxFrame _
  | .sxParse .. => sxParse _ _
  | .sxChunk .. => sxChunk _ _
  | .sxUnchunk .. => sxUnchunk _
  | .sxSegLoad .. => sxSegLoad _ _
  | .sxSegNext => sxSegNext
  | .sxReasmPush .. => sxReasmPush _ _
  | .sxReasmReset .. => sxReasmReset _
  | .hexFormat .. => hexFormat _ _
  | .reset => reset
  | .m1NoteOff .. => m1NoteOff _ _ _ _
  | .m1NoteOn .. => m1NoteOn _ _ _ _
  | .m1PolyPressure .. => m1PolyPressure _ _ _ _
  | .m1ControlChange .. => m1ControlChange _ _ _ _
  | .m1ProgramChange .. => m1ProgramChange _ _ _
  | .m1ChannelPressure .. => m1ChannelPressure _ _ _
  | .m1PitchBend .. => m1PitchBend _ _ _ _
  | .m1TuneRequest .. => m1TuneRequest _
  | .m1Sysex .. => m1Sysex _ _
  | .ump1TuneRequest .. => ump1TuneRequest _ _
  | .ump2NoteOff .. => ump2NoteOff _ _ _ _
  | .ump2NoteOn .. => ump2NoteOn _ _ _ _
  | .ump2PolyPressure .. => ump2PolyPressure _ _ _ _
  | .ump2ControlChange .. => ump2ControlChange _ _ _ _
  | .ump2ProgramChange .. => ump2ProgramChange _ _ _ _
  | .ump2ChannelPressure .. => ump2ChannelPressure _ _ _ _
  | .ump2PitchBend .. => ump2PitchBend _ _ _ _
  | .ump4PncRegistered .. => ump4PncRegistered _ _ _ _ _
  | .ump4PncAssignable .. => ump4PncAssignable _ _ _ _ _
  | .ump4NoteOff .. => ump4NoteOff _ _ _ _ _ _
  | .ump4NoteOn .. => ump4NoteOn _ _ _ _ _ _
  | .ump4PolyPressure .. => ump4PolyPressure _ _ _ _ _
  | .ump4ControlChange .. => ump4ControlChange _ _ _ _ _
  | .ump4ProgramChange .. => ump4ProgramChange _ _ _ _ _ _ _ _
  | .ump4ChannelPressure .. => ump4ChannelPressure _ _ _ _
  | .ump4PitchBend .. => ump4PitchBend _ _ _ _
  | .ump3Complete .. => ump3Complete _ _ _ _ _ _ _ _
  | .ump3Start .. => ump3Start _ _ _ _ _ _ _ _
  | .ump3Continue .. => ump3Continue _ _ _ _ _ _ _ _
  | .ump3End .. => ump3End _ _ _ _ _ _ _ _

end RoundTrip

/-- Settles O7: every instruction comes back by the round trip of its row. -/
theorem decodeUndoesEncode : Obligations.DecodeUndoesEncode := by
  unfold Obligations.DecodeUndoesEncode
  exact roundTrip

/-- Settles O9: the decoder evaluated on the nine inputs. -/
theorem specWordsDecode : Obligations.SpecWordsDecode := by
  unfold Obligations.SpecWordsDecode
  decide

/-! ## Opcodes (R132) -/

/-- The boundary names an opcode as unknown exactly when it is in no row of the command map. -/
theorem decodeInput_unknownOpcode_iff (c : Byte) (os : List Operand) :
    decodeInput (.command c os) = .error (.unknownOpcode c) ↔ Op.ofCode? c = none := by
  simp only [decodeInput, decodeCommand]
  cases Op.ofCode? c with
  | none => simp
  | some op => cases h : decodeOperands op os <;> simp [h]

theorem Op.ofCode?_eq_none_iff (c : Byte) : Op.ofCode? c = none ↔ c.toNat ∉ Op.all.map fun o => o.code.toNat := by
  simp [Op.ofCode?, BitVec.toNat_inj]

/-- Settles O3: the numbers outside the ranges are the codes of the 29 rows. -/
theorem unknownOpcodesAreRefused : Obligations.UnknownOpcodesAreRefused := by
  unfold Obligations.UnknownOpcodesAreRefused
  intro c os
  rw [decodeInput_unknownOpcode_iff, Op.ofCode?_eq_none_iff]
  simp only [Op.all, Op.code, List.map_cons, List.map_nil, List.mem_cons, List.not_mem_nil, or_false,
    BitVec.reduceToNat]
  have := c.isLt
  omega

/-! ## Received messages (R142, R150) -/

/-- A status byte is its two nibbles. -/
theorem byteOf_of_hi4 {b : Byte} {s : U4} (h : (hi4 b).toNat = s.toNat) : byteOf s (lo4 b) = b := by
  rw [← BitVec.eq_of_toNat_eq h, byteOf_hi4_lo4]

/-- The first word of a message, with its bytes 2 and 3 as they stand (R152, R153, R155). -/
theorem word4_of_header {w : Word} {t s : U4} (ht : (msgType w).toNat = t.toNat) (hs : (statusOf w).toNat = s.toNat) :
    word4 (headByte t (groupOf w)) (byteOf s (channelOf w)) (byte2 w) (byte3 w) = w := by
  rw [headByte, groupOf, byteOf_of_hi4 ht, channelOf, byteOf_of_hi4 hs, word4_bytes]

theorem word16_bytes (w : Word) : word16 (byte0 w ++ byte1 w) (lo16 w) = w := by
  have hw := word4_bytes w
  rw [word4_eq_word16] at hw
  have hlo := lo16_word16 (byte0 w ++ byte1 w) (byte2 w ++ byte3 w)
  rw [hw] at hlo
  rw [hlo, hw]

/-- The first word of a message whose low half is reserved (R151, R155). -/
theorem word16_of_header {w : Word} {t : U4} {b : Byte} (ht : (msgType w).toNat = t.toNat) (hb : b = byte1 w) :
    word16 (headByte t (groupOf w) ++ b) (lo16 w) = w := by
  rw [headByte, groupOf, byteOf_of_hi4 ht, hb, word16_bytes]

/-- The packet of an MT 0x3 message (R153). -/
theorem mt3Words_of_header {w1 w2 : Word} {st : U4} (ht : (msgType w1).toNat = 0x3)
    (hs : (statusOf w1).toNat = st.toNat) :
    mt3Words (groupOf w1) st (channelOf w1) (byte2 w1) (byte3 w1) (byte0 w2) (byte1 w2) (byte2 w2) (byte3 w2) = [w1, w2] := by
  rw [mt3Words, word4_of_header ht hs, word4_bytes]

/-- Every word message is a wire form that encodes to it, a packet for the reassembler, or goes whole to UMP_FROMWORDS. -/
theorem encode_decodeUmp (ws : List Word) : encode (decodeUmp ws) = .ump ws ∨ decodeUmp ws = .umpFromWords ws ∨
    ∃ w1 w2, ws = [w1, w2] ∧ decodeUmp ws = .sxReasmPush w1 w2 := by
  unfold decodeUmp
  split
  · rename_i w
    split
    · rename_i ht
      split
      · rename_i hb
        exact .inl (congrArg (fun w => Input.ump [w]) (word16_of_header ht hb.symm))
      · exact .inr (.inl rfl)
    · rename_i ht
      split
      iterate 7 exact .inl (congrArg (fun w => Input.ump [w]) (word4_of_header ht ‹_›))
      exact .inr (.inl rfl)
    · exact .inr (.inl rfl)
  · rename_i w1 w2
    split
    · rename_i ht
      split
      iterate 4 exact .inl (congrArg Input.ump (mt3Words_of_header ht ‹_›))
      exact .inr (.inr ⟨w1, w2, rfl, rfl⟩)
    · rename_i ht
      split
      iterate 2 exact .inl (congrArg (fun w => Input.ump [w, w2]) (word4_of_header ht ‹_›))
      iterate 2 exact .inl (congrArg₂ (fun w w' => Input.ump [w, w']) (word4_of_header ht ‹_›) (word16_halves w2))
      iterate 2 exact .inl (congrArg (fun w => Input.ump [w, w2]) (word4_of_header ht ‹_›))
      · exact .inl (congrArg₂ (fun w w' => Input.ump [w, w']) (word4_of_header ht ‹_›) (word4_bytes w2))
      iterate 2 exact .inl (congrArg (fun w => Input.ump [w, w2]) (word16_of_header ht (byteOf_of_hi4 ‹_›)))
      exact .inr (.inl rfl)
    · exact .inr (.inl rfl)
  · exact .inr (.inl rfl)

/-- A byte message that starts with 0xF0 is the SysEx form of it, and one that is no form goes whole to M1_FROMBYTES. -/
theorem encode_sysex_or_whole {b0 : Byte} {rest : List Byte} (g : Option U4) :
    encode (if b0 = 0xF0#8 then .m1Sysex g rest else .m1FromBytes (b0 :: rest) g) = .midi1 (b0 :: rest) g ∨
    (if b0 = 0xF0#8 then Instr.m1Sysex g rest else .m1FromBytes (b0 :: rest) g) = .m1FromBytes (b0 :: rest) g := by
  split
  · rename_i h
    subst h
    exact .inl rfl
  · exact .inr rfl

/-- Every byte message is a wire form that encodes to it, or goes whole to M1_FROMBYTES. -/
theorem encode_decodeMidi1 (m : List Byte) (g : Option U4) :
    encode (decodeMidi1 m g) = .midi1 m g ∨ decodeMidi1 m g = .m1FromBytes m g := by
  unfold decodeMidi1
  split
  · split
    · rename_i h
      subst h
      exact .inl rfl
    · exact encode_sysex_or_whole g
  · split
    iterate 2 exact .inl (congrArg (fun b => Input.midi1 [b, _] g) (byteOf_of_hi4 ‹_›))
    exact encode_sysex_or_whole g
  · split
    iterate 5 exact .inl (congrArg (fun b => Input.midi1 [b, _, _] g) (byteOf_of_hi4 ‹_›))
    exact encode_sysex_or_whole g
  · exact encode_sysex_or_whole g
  · exact .inr rfl

/-- Settles O8: the fields a wire form takes from a message are all of its bits. -/
theorem receivedMessagesKeepEveryBit : Obligations.ReceivedMessagesKeepEveryBit := by
  unfold Obligations.ReceivedMessagesKeepEveryBit
  constructor
  · rintro ws i ⟨⟩
    exact encode_decodeUmp ws
  · rintro m g i ⟨⟩
    exact encode_decodeMidi1 m g

end Sys2Proof

namespace Sys2Proof.Machine

/-! ## Responses (R133, R606) -/

/-- `run` ends from `s` in a next state that holds one response, with the port and `P_SX_MAX` as in `s`. -/
def AnswersOnce (s : State) (run : State → Answer) : Prop :=
  ∃ t r, run s = .next t ∧ t.response = some r ∧ t.port = s.port ∧ t.pSxMax = s.pSxMax

/-- Ending with a response after writes that leave the port and the parameter alone. -/
theorem AnswersOnce.of_next {s u : State} {run : State → Answer} {r : Response} (h : run s = .next (u.withResponse r))
    (hport : u.port = s.port) (hmax : u.pSxMax = s.pSxMax) : AnswersOnce s run := ⟨_, r, h, rfl, hport, hmax⟩

theorem pushPacket_answersOnce (s : State) (p : Packet) : AnswersOnce s (pushPacket · p) := by
  obtain ⟨r, h | ⟨-, c, h⟩⟩ := pushPacket_next s p
  · exact .of_next h rfl rfl
  · exact .of_next h rfl rfl

theorem execSxSegLoad_answersOnce (s : State) (d : List U7) (g : U4) : AnswersOnce s (execSxSegLoad d g) := by
  cases hc : s.withinCapacity d.length with
  | true => exact .of_next (execSxSegLoad_within g hc) rfl rfl
  | false => exact .of_next (execSxSegLoad_beyond g hc) rfl rfl

theorem execSxSegNext_answersOnce (s : State) : AnswersOnce s execSxSegNext := by
  cases hact : s.seg.active with
  | true => exact .of_next (execSxSegNext_active hact) rfl rfl
  | false => exact .of_next (execSxSegNext_idle hact) rfl rfl

theorem execSxReasmReset_answersOnce (s : State) (sel : Option ReasmSel) : AnswersOnce s (execSxReasmReset sel) := by
  obtain _ | _ | g := sel
  · exact .of_next (returnOk_eq s.clearAllRa .none) rfl rfl
  · exact .of_next (returnOk_eq s.clearAllRa .none) rfl rfl
  · exact .of_next (returnOk_eq (s.clearRa g) .none) rfl rfl

theorem exec_answersOnce {i : Instr} (hwf : i.wf = true) (s : State) : AnswersOnce s (exec i) := by
  by_cases hp : isPure i = true
  · obtain ⟨r, hr⟩ := answersEverywhere_of_isPure hp hwf
    exact .of_next (hr s) rfl rfl
  · cases i with
    | sxSegLoad d g => exact execSxSegLoad_answersOnce s d g
    | sxSegNext => exact execSxSegNext_answersOnce s
    | sxReasmPush | ump3Complete | ump3Start | ump3Continue | ump3End => exact pushPacket_answersOnce s _
    | sxReasmReset sel => exact execSxReasmReset_answersOnce s sel
    | reset => exact .of_next (returnOk_eq (s.setSeg SegContext.idle).clearAllRa .none) rfl rfl
    | _ => exact absurd rfl hp

/-- R73: the commands whose operands may be ill typed check them before anything else. -/
theorem exec_illTyped {i : Instr} (hwf : i.wf = false) (s : State) :
    ∃ op, exec i s = .refused (.boundary (.illTyped op)) := by
  cases i with
  | biAdd | biSub | biMul | biDiv | biRem | biCmp | vvFromM1 | vvFromM2 | vvViewM1 | vvViewM2 | m1ToBytes | umpToWords
  | sxFrame => exact ⟨_, atBoundary_illTyped _ hwf⟩
  | _ => cases hwf

/-- Settles O10: a well-typed instruction ends in one response, and the check of an ill-typed one refuses it. -/
theorem wellTypedInstructionsAnswerOnce : Obligations.WellTypedInstructionsAnswerOnce := by
  unfold Obligations.WellTypedInstructionsAnswerOnce
  exact fun i s => ⟨fun hwf => exec_answersOnce hwf s, fun hwf => exec_illTyped hwf s⟩

/-! ## Ends of an instruction that computes its result -/

section Computed

variable {α : Type} {i : Instr} {s : State} {x : Except ErrorKind α} (f : α → Result)

theorem answers_of_ok {a : α} (hx : x = .ok a) (hi : exec i s = answer s (x.map f)) : Answers i s (.ok (f a)) := by
  subst hx
  exact answers_of_answer hi

theorem answers_of_error {k : ErrorKind} (hx : x = .error k) (hi : exec i s = answer s (x.map f)) :
    Answers i s (.error k) := by
  subst hx
  exact answers_of_answer hi

theorem ok_of_answers {f : α → Result} (hf : Function.Injective f) {a : α} (h : Answers i s (.ok (f a)))
    (hi : exec i s = answer s (x.map f)) : x = .ok a := by
  have hr := answers_unique (answers_of_answer hi) h
  cases x with
  | ok b => exact congrArg Except.ok (hf (Response.ok.inj hr))
  | error k => cases hr

end Computed

/-! ## Whole byte messages (R170, R175) -/

/-- R170: a decode never answers anything but an Event or MALFORMED_WIRE_DATA. -/
theorem fromBytes_malformed {m : List Byte} {g : U4} (h : ∀ e, fromBytes m g ≠ .ok e) :
    fromBytes m g = .error .malformedWireData := by
  cases hx : fromBytes m g with
  | ok e => exact absurd hx (h e)
  | error k => rw [fromBytes_error hx]

/-- What stands before the last 0xF7 of a decoded SysEx message is 7-bit, so that 0xF7 is the first. -/
theorem sysexOfBytes_ok {g : U4} {rest : List Byte} {e : Event} (h : sysexOfBytes g rest = .ok e) :
    ∃ d, rest = d ++ [0xF7#8] ∧ 0xF7#8 ∉ d := by
  unfold sysexOfBytes at h
  split at h
  · rename_i hlast
    split at h
    · rename_i h7
      exact ⟨rest.dropLast, (List.dropLast_append_getLast? _ hlast).symm,
        fun hmem => absurd (List.all_eq_true.mp h7 _ hmem) (by decide)⟩
    · cases h
  · cases h

theorem with7_ok_iff {b : Byte} {e e' : Event} : with7 b e = .ok e' ↔ is7 b = true ∧ e = e' := by
  cases h : is7 b with
  | true => simp [with7_ok e h]
  | false => simp [with7_bad e h]

theorem with7x2_ok_iff {b c : Byte} {e e' : Event} :
    with7x2 b c e = .ok e' ↔ (is7 b = true ∧ is7 c = true) ∧ e = e' := by
  rw [with7x2, ← Bool.and_eq_true]
  cases is7 b && is7 c <;> simp

/-- A first byte of the format M1-CH3 has one of the five status nibbles of R142. -/
theorem isChannel3_iff (b0 : Byte) :
    isChannel3 b0 = true ↔ (0x80 ≤ b0.toNat ∧ b0.toNat ≤ 0xBF) ∨ 0xE0 ≤ b0.toNat ∧ b0.toNat ≤ 0xEF := by
  simp [isChannel3]

theorem isChannel2_iff (b0 : Byte) : isChannel2 b0 = true ↔ 0xC0 ≤ b0.toNat ∧ b0.toNat ≤ 0xDF := by
  simp [isChannel2]

/-- A three-byte channel message decodes when its data bytes are 7-bit. -/
theorem channel3OfBytes_ok (g : U4) {b0 d1 d2 : Byte} (h0 : isChannel3 b0 = true) (h1 : is7 d1 = true)
    (h2 : is7 d2 = true) : ∃ e, channel3OfBytes g b0 d1 d2 = .ok e ∧ e.group = g := by
  rw [isChannel3_iff] at h0
  have hn := hi4_toNat b0
  unfold channel3OfBytes
  split
  iterate 5 exact ⟨_, with7x2_ok _ h1 h2, rfl⟩
  simp only [imp_false] at *
  omega

theorem is7_of_channel3OfBytes_ok {g : U4} {b0 d1 d2 : Byte} {e : Event} (h : channel3OfBytes g b0 d1 d2 = .ok e) :
    is7 d1 = true ∧ is7 d2 = true := by
  unfold channel3OfBytes at h
  split at h
  iterate 5 exact (with7x2_ok_iff.mp h).1
  cases h

/-- A two-byte channel message decodes when its data byte is 7-bit. -/
theorem channel2OfBytes_ok (g : U4) {b0 d1 : Byte} (h0 : isChannel2 b0 = true) (h1 : is7 d1 = true) :
    ∃ e, channel2OfBytes g b0 d1 = .ok e ∧ e.group = g := by
  rw [isChannel2_iff] at h0
  have hn := hi4_toNat b0
  unfold channel2OfBytes
  split
  iterate 2 exact ⟨_, with7_ok _ h1, rfl⟩
  simp only [imp_false] at *
  omega

theorem is7_of_channel2OfBytes_ok {g : U4} {b0 d1 : Byte} {e : Event} (h : channel2OfBytes g b0 d1 = .ok e) :
    is7 d1 = true := by
  unfold channel2OfBytes at h
  split at h
  iterate 2 exact (with7_ok_iff.mp h).1
  cases h

/-- One whole message that does not start with 0xF0: the first byte gives the number of data bytes (R175), all 7-bit. -/
def WholeMessage (b0 : Byte) (rest : List Byte) : Prop :=
  (∀ x ∈ rest, x.toNat < 0x80) ∧
    ((isChannel3 b0 = true ∧ rest.length = 2) ∨ (isChannel2 b0 = true ∧ rest.length = 1) ∨
      (b0 = 0xF6#8 ∧ rest.length = 0))

theorem fromBytes_of_wholeMessage (g : U4) {b0 : Byte} {rest : List Byte} (h : WholeMessage b0 rest) :
    ∃ e, fromBytes (b0 :: rest) g = .ok e ∧ e.group = g := by
  obtain ⟨h7, ⟨h0, hlen⟩ | ⟨h0, hlen⟩ | ⟨rfl, hlen⟩⟩ := h
  · obtain ⟨d1, d2, rfl⟩ := List.length_eq_two.mp hlen
    simp only [fromBytes, h0, if_true]
    exact channel3OfBytes_ok g h0 ((is7_iff d1).mpr (h7 d1 (by simp))) ((is7_iff d2).mpr (h7 d2 (by simp)))
  · obtain ⟨d1, rfl⟩ := List.length_eq_one_iff.mp hlen
    have h3 : isChannel3 b0 = false := by
      rw [isChannel2_iff] at h0
      rw [Bool.eq_false_iff, Ne, isChannel3_iff]
      omega
    simp only [fromBytes, h3, h0, Bool.false_eq_true, if_false, if_true]
    exact channel2OfBytes_ok g h0 ((is7_iff d1).mpr (h7 d1 (by simp)))
  · obtain rfl := List.length_eq_zero_iff.mp hlen
    exact ⟨_, fromBytes_tuneRequest g, rfl⟩

theorem wholeMessage_of_fromBytes {g : U4} {b0 : Byte} {rest : List Byte} {e : Event} (hb : b0 ≠ 0xF0#8)
    (h : fromBytes (b0 :: rest) g = .ok e) : WholeMessage b0 rest := by
  simp only [fromBytes, if_neg hb] at h
  split at h
  · rename_i h0
    split at h
    · obtain ⟨h1, h2⟩ := is7_of_channel3OfBytes_ok h
      exact ⟨by simp [← is7_iff, h1, h2], .inl ⟨h0, rfl⟩⟩
    · cases h
  · split at h
    · rename_i h0
      split at h
      · exact ⟨by simp [← is7_iff, is7_of_channel2OfBytes_ok h], .inr (.inl ⟨h0, rfl⟩)⟩
      · cases h
    · split at h
      · rename_i h0
        split at h
        · exact ⟨by simp, .inr (.inr ⟨h0, rfl⟩)⟩
        · cases h
      · cases h

/-- Settles O26: outside SysEx the decoded operands are the whole messages, and a SysEx message ends at its first 0xF7. -/
theorem bytesDecodeOnlyWholeMessages : Obligations.BytesDecodeOnlyWholeMessages := by
  unfold Obligations.BytesDecodeOnlyWholeMessages
  refine fun grp s => ⟨answers_of_error Result.event (x := .error _) rfl rfl, ?_, fun rest hrest => ?_, ?_⟩
  · have hsysex : fromBytes [0xF0, 0x41, 0xF7] (groupOrDefault grp) = .ok (.sysex7 (groupOrDefault grp) (.one 0x41) []) :=
      (fromBytes_sysex _ _).trans (sysexOfBytes_framed _ [0x41] rfl)
    exact ⟨[0x41, 0xF7], _, answers_of_ok Result.event hsysex rfl⟩
  · refine answers_of_error Result.event (fromBytes_malformed fun e he => hrest ?_) rfl
    exact sysexOfBytes_ok ((fromBytes_sysex _ rest).symm.trans he)
  · intro b0 rest hb whole
    have hwhole : whole ↔ WholeMessage b0 rest := by
      unfold WholeMessage
      rw [isChannel3_iff, isChannel2_iff]
      exact Iff.rfl
    rw [hwhole]
    constructor
    · intro h
      obtain ⟨e, he, hg⟩ := fromBytes_of_wholeMessage (groupOrDefault grp) h
      exact ⟨e, answers_of_ok Result.event he rfl, hg⟩
    · intro h
      exact answers_of_error Result.event (fromBytes_malformed fun e he => h (wholeMessage_of_fromBytes hb he)) rfl

/-! ## Reserved fields (R172) -/

theorem getLsbD_zero_congr {o o' : Byte} (h : o.toNat % 2 = o'.toNat % 2) : o.getLsbD 0 = o'.getLsbD 0 := by
  simp only [BitVec.getLsbD, Nat.testBit_zero, h]

/-- R424: of the option byte, bit 0 is read alone. -/
theorem mt4ProgramChange_congr (g c : U4) {r r' o o' p q q' m l : Byte} (h : o.toNat % 2 = o'.toNat % 2) :
    mt4ProgramChange g c r o p q m l = mt4ProgramChange g c r' o' p q' m l := by
  rw [mt4ProgramChange, mt4ProgramChange, getLsbD_zero_congr h]

/-- R424: without a bank the bank bytes are not read. -/
theorem mt4ProgramChange_noBank (g c : U4) (r p q m l : Byte) {o : Byte} (h : o.toNat % 2 = 0) :
    mt4ProgramChange g c r o p q m l = with7 p (.programChange g c (low7 p) .noBank) := by
  have hbit : o.getLsbD 0 = false := by simp [BitVec.getLsbD, h]
  rw [mt4ProgramChange, hbit]
  rfl

/-- Two packets with the same header and the same counted slots; zero fill may differ. -/
structure SamePacket (p q : Packet) : Prop where
  mt : msgType p.w1 = msgType q.w1
  group : groupOf p.w1 = groupOf q.w1
  status : packetStatus? p = packetStatus? q
  count : countOf p = countOf q
  slots : countedSlots p = countedSlots q

/-- Slots that are equal as numbers below the byte count are the same bytes. -/
theorem countedSlots_congr {p q : Packet} (hcnt : countOf p = countOf q) (h : ∀ k, k < countOf p → p.slot k = q.slot k) :
    countedSlots p = countedSlots q := by
  unfold countedSlots
  apply List.ext_getElem
  · simp [slots_length, hcnt]
  · intro k hp hq
    rw [List.length_take, lt_min_iff] at hp hq
    rw [List.getElem_take, List.getElem_take]
    apply BitVec.eq_of_toNat_eq
    rw [← slot_eq p hp.2, ← slot_eq q hq.2, h k hp.1]

theorem samePacket_of_fields {p q : Packet} (hmt : p.mt = q.mt) (hgrp : p.grp = q.grp) (hst : p.st = q.st)
    (hcnt : p.cnt = q.cnt) (hslot : ∀ k, k < p.cnt → p.slot k = q.slot k) : SamePacket p q := by
  simp only [mt_eq, grp_eq, st_eq, BitVec.toNat_inj] at hmt hgrp hst
  simp only [cnt_eq] at hcnt hslot
  exact ⟨hmt, hgrp, congrArg PacketStatus.ofCode? hst, hcnt, countedSlots_congr hcnt hslot⟩

theorem SamePacket.bodyValid {p q : Packet} (h : SamePacket p q) : bodyValid p = bodyValid q := by
  rw [Machine.bodyValid, Machine.bodyValid, h.status, h.count, h.slots]

theorem SamePacket.packetBytes {p q : Packet} (h : SamePacket p q) : packetBytes p = packetBytes q := by
  rw [Machine.packetBytes, Machine.packetBytes, h.slots]

/-- R520: the reassembler reads the header and the counted slots of a packet. -/
theorem SamePacket.pushPacket {p q : Packet} (h : SamePacket p q) (s : State) : pushPacket s p = pushPacket s q := by
  rw [Machine.pushPacket, Machine.pushPacket, h.mt, h.group, h.status, h.bodyValid, h.packetBytes]

/-- R516: so does SX_UNCHUNK. -/
theorem SamePacket.unchunk {p q : Packet} (h : SamePacket p q) : unchunk [p] = unchunk [q] := by
  simp [unchunk_cons, packetValid, statusesOk, h.mt, h.status, h.bodyValid, h.packetBytes]

/-- Settles O36: no decoder reads its reserved operands, and a packet is read by its header and its counted slots. -/
theorem reservedFieldsAreIgnored : Obligations.ReservedFieldsAreIgnored := by
  unfold Obligations.ReservedFieldsAreIgnored
  intro g c s
  refine ⟨fun _ _ => rfl, fun _ _ _ => ⟨rfl, rfl⟩, fun _ _ _ _ => ⟨rfl, rfl⟩, fun _ _ _ => ⟨rfl, rfl⟩, ?_, ?_, ?_⟩
  · intro r r' o o' p q q' m l ho
    exact congrArg (fun x : Except ErrorKind Event => answer s (x.map .event)) (mt4ProgramChange_congr g c ho)
  · intro r o p q m m' l l' ho
    refine congrArg (fun x : Except ErrorKind Event => answer s (x.map .event)) ?_
    rw [mt4ProgramChange_noBank g c r p q m l ho, mt4ProgramChange_noBank g c r p q m' l' ho]
  · intro p q hmt hgrp hst hcnt hslot
    have h := samePacket_of_fields hmt hgrp hst hcnt hslot
    exact ⟨h.pushPacket s, congrArg (fun x : Except ErrorKind (List U7) => answer s (x.map .data)) h.unchunk⟩

/-! ## Words of no form (R171) -/

/-- What UMP_FROMWORDS asks of the words before it decodes them: the message types, statuses and word counts of R171. -/
def AdmittedWords (w : Word) (rest : List Word) : Prop :=
  (msgType w).toNat = 0x1 ∧ rest.length = 0 ∧ byte1 w = 0xF6#8 ∨
  (msgType w).toNat = 0x2 ∧ rest.length = 0 ∧ 0x8 ≤ (statusOf w).toNat ∧ (statusOf w).toNat ≤ 0xE ∨
  (msgType w).toNat = 0x3 ∧ rest.length % 2 = 1 ∧ (∀ p ∈ pairWords (w :: rest), p.Valid) ∨
  (msgType w).toNat = 0x4 ∧ rest.length = 1 ∧ (statusOf w).toNat ∈ [0x0, 0x1, 0x8, 0x9, 0xA, 0xB, 0xC, 0xD, 0xE]

theorem mt1OfWord_ok {w : Word} {e : Event} (h : mt1OfWord w = .ok e) : byte1 w = 0xF6#8 := by
  unfold mt1OfWord at h
  split at h
  · assumption
  · cases h

theorem mt2OfWord_ok {w : Word} {e : Event} (h : mt2OfWord w = .ok e) :
    0x8 ≤ (statusOf w).toNat ∧ (statusOf w).toNat ≤ 0xE := by
  unfold mt2OfWord at h
  split at h
  case h_8 => cases h
  all_goals omega

theorem mt4OfWords_ok {w w2 : Word} {e : Event} (h : mt4OfWords w w2 = .ok e) :
    (statusOf w).toNat ∈ [0x0, 0x1, 0x8, 0x9, 0xA, 0xB, 0xC, 0xD, 0xE] := by
  unfold mt4OfWords at h
  split at h
  case h_10 => cases h
  all_goals simp [*]

theorem sysexOfPackets_ok {ps : List Packet} {g : U4} {e : Event} (h : sysexOfPackets ps g = .ok e) :
    ∀ p ∈ ps, p.Valid := by
  unfold sysexOfPackets at h
  split at h
  · cases hu : unchunk ps with
    | error k => rw [hu] at h; cases h
    | ok d =>
      obtain ⟨hvalid, -⟩ := (unchunk_ok_iff ps d).mp hu
      exact fun p hp => (valid_iff p).mpr (List.all_eq_true.mp hvalid p hp)
  · cases h

/-- An Event comes from admitted words only. -/
theorem fromWords_ok {w : Word} {rest : List Word} {e : Event} (h : fromWords (w :: rest) = .ok e) :
    AdmittedWords w rest := by
  simp only [fromWords] at h
  split at h
  · rename_i ht
    split at h
    · rename_i hrest
      exact .inl ⟨ht, by simp [hrest], mt1OfWord_ok h⟩
    · cases h
  · rename_i ht
    split at h
    · rename_i hrest
      exact .inr (.inl ⟨ht, by simp [hrest], mt2OfWord_ok h⟩)
    · cases h
  · rename_i ht
    split at h
    · rename_i hlen
      rw [List.length_cons] at hlen
      exact .inr (.inr (.inl ⟨ht, by omega, sysexOfPackets_ok h⟩))
    · cases h
  · rename_i ht
    split at h
    · exact .inr (.inr (.inr ⟨ht, rfl, mt4OfWords_ok h⟩))
    · cases h
  · cases h

/-- R171: a decode never answers anything but an Event or MALFORMED_WIRE_DATA. -/
theorem fromWords_malformed {ws : List Word} (h : ∀ e, fromWords ws ≠ .ok e) : fromWords ws = .error .malformedWireData := by
  cases hx : fromWords ws with
  | ok e => exact absurd hx (h e)
  | error k => rw [fromWords_error hx]

/-- Settles O35: none of the listed words is admitted. -/
theorem wordsOfNoFormAreMalformed : Obligations.WordsOfNoFormAreMalformed := by
  unfold Obligations.WordsOfNoFormAreMalformed
  refine fun s => ⟨answers_of_error Result.event (x := .error _) rfl rfl, ?_⟩
  intro w rest mt st hbad
  refine answers_of_error Result.event (fromWords_malformed fun e he => ?_) rfl
  have hmt : (msgType w).toNat = mt := msgType_toNat w
  have hst : (statusOf w).toNat = st := statusOf_toNat w
  rcases fromWords_ok he with ⟨ht, hlen, hb⟩ | ⟨ht, hlen, hs⟩ | ⟨ht, hlen, hvalid⟩ | ⟨ht, hlen, hs⟩
  · have hstatus : w.toNat / 2 ^ 16 % 2 ^ 8 = 0xF6 := by
      rw [← byte1_toNat, hb]
      rfl
    omega
  · omega
  · obtain h | h | h | h | h | ⟨-, p, hp, h⟩ | h := hbad
    case inr.inr.inr.inr.inr.inl =>
      obtain ⟨-, hst, hcnt, -⟩ := hvalid p hp
      omega
    all_goals omega
  · simp only [List.mem_cons, List.not_mem_nil, or_false] at hs hbad
    omega

/-! ## The classification table (R160, R316, R436) -/

theorem eq_of_unless_error {α : Type} {c : Prop} [Decidable c] {k : ErrorKind} {x y : α}
    (h : (if c then .error k else .ok x : Except ErrorKind α) = .ok y) : x = y := by
  split at h <;> cases h
  rfl

theorem eq_of_when_ok {α : Type} {c : Prop} [Decidable c] {k : ErrorKind} {x y : α}
    (h : (if c then .ok x else .error k : Except ErrorKind α) = .ok y) : x = y := by
  split at h <;> cases h
  rfl

/-- Bytes have the status and the length of a row of R160. -/
def BytesOfRow (e : Event) (incStart incEnd : Bool) (m : List Byte) (st : Byte) (len : FormLength) : Prop :=
  m.length = len.byteCount e incStart incEnd ∧
    (incStart = true → ∃ b0, m.head? = some b0 ∧ b0.toNat / 16 = st.toNat / 16 ∧ (0xF0 ≤ st.toNat → b0 = st))

/-- A channel message: the table gives its status with channel 0. -/
theorem bytesOfRow_channel {e : Event} {a b : Bool} {st : Byte} (n c : U4) (rest : List Byte)
    (hst : st.toNat = n.toNat * 16) (hn : n.toNat < 0xF) :
    BytesOfRow e a b (byteOf n c :: rest) st (.fixed (rest.length + 1)) := by
  have hb := byteOf_toNat n c
  have hc := c.isLt
  exact ⟨rfl, fun _ => ⟨_, rfl, by omega, by omega⟩⟩

/-- A SysEx message: the start byte is its status, and each framing byte asked for counts. -/
theorem bytesOfRow_sysex {e : Event} {a b : Bool} {m : List Byte} (h : sysexBytes e a b = .ok m) :
    BytesOfRow e a b m 0xF0 .sysex := by
  cases h
  refine ⟨?_, ?_⟩
  · cases a <;> cases b <;> simp [FormLength.byteCount]
  · rintro rfl
    exact ⟨0xF0, rfl, rfl, fun _ => rfl⟩

/-- R316: what M1_TOBYTES emits for each kind. -/
theorem toBytes_row {e : Event} {a b : Bool} {m : List Byte} (h : toBytes e a b = .ok m) :
    ∃ st len, (classification e.kind).midi1 = some (st, len) ∧ BytesOfRow e a b m st len := by
  cases e with
  | noteOff _ ch => obtain rfl := eq_of_unless_error h; exact ⟨_, _, rfl, bytesOfRow_channel 0x8 ch _ rfl (by decide)⟩
  | noteOn _ ch => obtain rfl := eq_of_unless_error h; exact ⟨_, _, rfl, bytesOfRow_channel 0x9 ch _ rfl (by decide)⟩
  | polyPressure _ ch => cases h; exact ⟨_, _, rfl, bytesOfRow_channel 0xA ch _ rfl (by decide)⟩
  | controlChange _ ch => cases h; exact ⟨_, _, rfl, bytesOfRow_channel 0xB ch _ rfl (by decide)⟩
  | programChange _ ch => obtain rfl := eq_of_when_ok h; exact ⟨_, _, rfl, bytesOfRow_channel 0xC ch _ rfl (by decide)⟩
  | channelPressure _ ch => cases h; exact ⟨_, _, rfl, bytesOfRow_channel 0xD ch _ rfl (by decide)⟩
  | pitchBend _ ch => cases h; exact ⟨_, _, rfl, bytesOfRow_channel 0xE ch _ rfl (by decide)⟩
  | pncRegistered | pncAssignable => cases h
  | tuneRequest => cases h; exact ⟨_, _, rfl, rfl, fun _ => ⟨_, rfl, rfl, fun _ => rfl⟩⟩
  | sysex7 | universalSysex7 => exact ⟨_, _, rfl, bytesOfRow_sysex h⟩

/-- Words have the message type, the status where there is one, the group and the length of a row of R160. -/
def WordsOfRow (e : Event) (ws : List Word) (mt : U4) (st : Option U4) (len : FormLength) : Prop :=
  ∃ w, ws.length = len.wordCount e ∧ ws.head? = some w ∧ w.toNat / 2 ^ 28 = mt.toNat ∧
    w.toNat / 2 ^ 24 % 16 = e.group.toNat ∧ ∀ x, st = some x → w.toNat / 2 ^ 20 % 16 = x.toNat

theorem wordsOfRow_of_head {e : Event} {w : Word} {rest : List Word} {st : Option U4} {len : FormLength}
    (hlen : rest.length + 1 = len.wordCount e) (hgroup : groupOf w = e.group) (hst : ∀ x, st = some x → statusOf w = x) :
    WordsOfRow e (w :: rest) (msgType w) st len :=
  ⟨w, hlen, rfl, (msgType_toNat w).symm, by rw [← groupOf_toNat, hgroup],
    fun x hx => by rw [← statusOf_toNat, hst x hx]⟩

/-- A channel message in words. -/
theorem wordsOfRow_channel {e : Event} (mt st c : U4) (f1 f2 : Byte) (rest : List Word) :
    WordsOfRow e (word4 (headByte mt e.group) (byteOf st c) f1 f2 :: rest) mt (some st) (.fixed (rest.length + 1)) := by
  simpa using wordsOfRow_of_head (w := word4 (headByte mt e.group) (byteOf st c) f1 f2) (rest := rest) (st := some st)
    (len := .fixed (rest.length + 1)) rfl (by simp) (by simp)

theorem wordsOfRow_tuneRequest {e : Event} (b c d : Byte) :
    WordsOfRow e [word4 (headByte 0x1 e.group) b c d] 0x1 none (.fixed 1) := by
  simpa using wordsOfRow_of_head (w := word4 (headByte 0x1 e.group) b c d) (rest := []) (st := none)
    (len := .fixed 1) rfl (by simp) nofun

/-- A SysEx message in words: its first packet is one of SX_CHUNK, of which there is at least one. -/
theorem wordsOfRow_sysex {e : Event} (he : e.isSysEx = true) :
    WordsOfRow e (flattenPackets (chunk (frame e) e.group)) 0x3 none .sysex := by
  have hlen : (flattenPackets (chunk (frame e) e.group)).length = FormLength.sysex.wordCount e := by
    rw [flattenPackets_length, chunk_length, FormLength.wordCount]
  have hpos : 0 < (frame e).length := List.length_pos_iff.mpr (frame_ne_nil he)
  have hcount := chunk_length (frame e) e.group
  cases hps : chunk (frame e) e.group with
  | nil =>
    simp [hps, packetCount, Config.packetCapacity] at hcount
    omega
  | cons p ps =>
    obtain ⟨hvalid, hgroup⟩ := chunk_valid (hps ▸ List.mem_cons_self : p ∈ chunk (frame e) e.group)
    obtain ⟨hmt, -⟩ := ((valid_iff p).mpr hvalid)
    rw [hps] at hlen
    have := wordsOfRow_of_head (st := none) hlen hgroup nofun
    rwa [(mt_eq_three p).mp hmt] at this

/-- R436: what UMP_TOWORDS emits for each kind under P1. -/
theorem toWords_p1_row {e : Event} {ws : List Word} (h : toWords e .p1 = .ok ws) :
    ∃ mt len st, (classification e.kind).p1 = some (mt, len) ∧ WordsOfRow e ws mt st len := by
  cases e with
  | noteOff _ ch => obtain rfl := eq_of_unless_error h; exact ⟨_, _, _, rfl, wordsOfRow_channel 0x2 0x8 ch _ _ _⟩
  | noteOn _ ch => obtain rfl := eq_of_unless_error h; exact ⟨_, _, _, rfl, wordsOfRow_channel 0x2 0x9 ch _ _ _⟩
  | polyPressure _ ch => cases h; exact ⟨_, _, _, rfl, wordsOfRow_channel 0x2 0xA ch _ _ _⟩
  | controlChange _ ch => cases h; exact ⟨_, _, _, rfl, wordsOfRow_channel 0x2 0xB ch _ _ _⟩
  | programChange _ ch => obtain rfl := eq_of_when_ok h; exact ⟨_, _, _, rfl, wordsOfRow_channel 0x2 0xC ch _ _ _⟩
  | channelPressure _ ch => cases h; exact ⟨_, _, _, rfl, wordsOfRow_channel 0x2 0xD ch _ _ _⟩
  | pitchBend _ ch => cases h; exact ⟨_, _, _, rfl, wordsOfRow_channel 0x2 0xE ch _ _ _⟩
  | pncRegistered | pncAssignable => cases h
  | tuneRequest => cases h; exact ⟨_, _, _, rfl, wordsOfRow_tuneRequest _ _ _⟩
  | sysex7 | universalSysex7 => cases h; exact ⟨_, _, _, rfl, wordsOfRow_sysex rfl⟩

/-- R436: what UMP_TOWORDS emits for each kind under P2, where every kind has a form. -/
theorem toWords_p2_row (e : Event) : ∃ ws, toWords e .p2 = .ok ws ∧
    WordsOfRow e ws (classification e.kind).p2.1 (classification e.kind).p2.2.1 (classification e.kind).p2.2.2 := by
  cases e with
  | noteOff _ ch => exact ⟨_, rfl, wordsOfRow_channel 0x4 0x8 ch _ _ _⟩
  | noteOn _ ch => exact ⟨_, rfl, wordsOfRow_channel 0x4 0x9 ch _ _ _⟩
  | polyPressure _ ch => exact ⟨_, rfl, wordsOfRow_channel 0x4 0xA ch _ _ _⟩
  | controlChange _ ch => exact ⟨_, rfl, wordsOfRow_channel 0x4 0xB ch _ _ _⟩
  | programChange _ ch _ bank => cases bank <;> exact ⟨_, rfl, wordsOfRow_channel 0x4 0xC ch _ _ _⟩
  | channelPressure _ ch => exact ⟨_, rfl, wordsOfRow_channel 0x4 0xD ch _ _ _⟩
  | pitchBend _ ch => exact ⟨_, rfl, wordsOfRow_channel 0x4 0xE ch _ _ _⟩
  | pncRegistered _ ch => exact ⟨_, rfl, wordsOfRow_channel 0x4 0x0 ch _ _ _⟩
  | pncAssignable _ ch => exact ⟨_, rfl, wordsOfRow_channel 0x4 0x1 ch _ _ _⟩
  | tuneRequest => exact ⟨_, rfl, wordsOfRow_tuneRequest _ _ _⟩
  | sysex7 | universalSysex7 => exact ⟨_, rfl, wordsOfRow_sysex rfl⟩

/-- R604: a kind without a MIDI 1.0 form, or a value that none carries, is refused in bytes and under P1. -/
theorem unsupported_of_no_midi1_form {e : Event} (h : (classification e.kind).midi1 = none ∨ has2Only e = true) :
    (∀ a b, toBytes e a b = .error .unsupportedProtocolCombination) ∧
      toWords e .p1 = .error .unsupportedProtocolCombination := by
  cases e with
  | noteOff _ _ _ _ aty ad | noteOn _ _ _ _ aty ad =>
    have hattr : aty ≠ 0#8 ∨ ad ≠ 0#16 := by simpa [has2Only] using h.resolve_left nofun
    exact ⟨fun _ _ => if_pos hattr, if_pos hattr⟩
  | programChange _ _ _ bank =>
    have hbank : bank ≠ .noBank := by simpa [has2Only] using h.resolve_left nofun
    exact ⟨fun _ _ => if_neg hbank, if_neg hbank⟩
  | pncRegistered | pncAssignable => exact ⟨fun _ _ => rfl, rfl⟩
  | _ => exact h.elim nofun nofun

theorem midi1_eq_none_iff (k : Kind) : (classification k).midi1 = none ↔ (classification k).p1 = none := by
  cases k <;> simp [classification]

/-- Settles O29: each encoder, kind by kind, emits what its row says. -/
theorem encodersFollowTheClassification : Obligations.EncodersFollowTheClassification := by
  unfold Obligations.EncodersFollowTheClassification
  intro e s hwf
  refine ⟨?_, ?_, midi1_eq_none_iff e.kind, fun he => List.length_pos_iff.mpr (frame_ne_nil he), ?_, ?_⟩
  · intro a b m h
    have hm := ok_of_answers (fun _ _ => Result.bytes.inj) h (atBoundary_typed _ hwf)
    obtain ⟨st, len, hrow, hlen, hhead⟩ := toBytes_row hm
    refine ⟨st, len, hrow, hlen, fun ha => hhead ?_⟩
    obtain _ | _ | _ := a
    · rfl
    · exact absurd rfl ha
    · rfl
  · intro ws h
    have hws := ok_of_answers (fun _ _ => Result.words.inj) h (atBoundary_typed _ hwf)
    obtain ⟨mt, len, st, hrow, w, hlen, hhead, hmt, hgroup, -⟩ := toWords_p1_row hws
    exact ⟨mt, len, w, hrow, hlen, hhead, hmt, hgroup⟩
  · intro h
    obtain ⟨hbytes, hwords⟩ := unsupported_of_no_midi1_form h
    exact ⟨fun a b => answers_of_error Result.bytes (hbytes _ _) (atBoundary_typed _ hwf),
      answers_of_error Result.words hwords (atBoundary_typed _ hwf)⟩
  · obtain ⟨ws, hws, w, hrow⟩ := toWords_p2_row e
    exact ⟨ws, w, answers_of_ok Result.words hws (atBoundary_typed _ hwf), hrow⟩

end Sys2Proof.Machine
end

section
/-! PROOFS. 40_marshaler.md: bounded integers are exact and fail outside their width, the rescale gives the nearest integer and
keeps the laws of R223, and EV_MAKE builds the Event its raw fields give or answers RANGE_ERROR. -/

namespace Sys2Proof

/-! ## Operands outside their width (R210) -/

theorem Width.cast_max (w : Width) : (w.max : Int) = 2 ^ w.bits - 1 := by
  rw [Width.max, Nat.cast_pred (Nat.two_pow_pos _), Nat.cast_pow, Nat.cast_ofNat]

/-- `2^W − 1` is odd. -/
theorem Width.max_odd (w : Width) : w.max % 2 = 1 := by cases w <;> decide

theorem bounded?_eq_none {w : Width} {v : Int} (h : ¬ between 0 (2 ^ w.bits - 1) v) : bounded? w (.int v) = none :=
  if_neg (w.cast_max ▸ h)

/-- The commands on two bounded integers read both of them in the width they name. -/
theorem decodeOperands_of_bounded?_eq_none {op : Op} {w : Width} {a b : Operand}
    (hop : op ∈ [Op.biAdd, .biSub, .biMul, .biDiv, .biRem, .biCmp]) (h : bounded? w a = none ∨ bounded? w b = none) :
    decodeOperands op [.int w.bits, a, b] = none := by
  unfold decodeOperands
  split
  · rfl
  · fin_cases hop <;> rcases h with h | h <;> simp [arg, h]

end Sys2Proof

namespace Sys2Proof.Machine

/-- Settles O5: the type check of the operand outside the width fails at the boundary, and again in the meaning. -/
theorem mixedWidthsAreRefused : Obligations.MixedWidthsAreRefused := by
  unfold Obligations.MixedWidthsAreRefused
  intro w
  constructor
  · intro op a b hop hab
    exact decodeInput_illTyped (decodeOperands_of_bounded?_eq_none hop
      ((not_and_or.mp hab).imp bounded?_eq_none bounded?_eq_none))
  · intro a b s hab
    have hill : (w.fits a && w.fits b) = false := by
      rw [← Bool.not_eq_true, Bool.and_eq_true, fits_iff, fits_iff]
      exact hab
    exact ⟨atBoundary_illTyped _ hill, atBoundary_illTyped _ hill, atBoundary_illTyped _ hill,
      atBoundary_illTyped _ hill, atBoundary_illTyped _ hill, atBoundary_illTyped _ hill⟩

/-! ## Bounded integers (R200 to R209) -/

/-- The range check of a width is the range of R55. -/
theorem outside_iff (w : Width) (v : Int) : (v < 0 ∨ (w.max : Int) < v) ↔ ¬ between 0 (2 ^ w.bits - 1) v := by
  rw [w.cast_max, between]
  omega

theorem inRange_of_between {w : Width} {v : Int} (h : between 0 (2 ^ w.bits - 1) v) :
    inRange w v = .ok (.bounded w v.toNat) :=
  if_neg fun ho => (outside_iff w v).mp ho h

theorem inRange_of_not_between {w : Width} {v : Int} (h : ¬ between 0 (2 ^ w.bits - 1) v) :
    inRange w v = .error .rangeError :=
  if_pos ((outside_iff w v).mpr h)

theorem between_natCast_iff (w : Width) (n : Nat) : between 0 (2 ^ w.bits - 1) (n : Int) ↔ n ≤ 2 ^ w.bits - 1 := by
  rw [← w.cast_max, between, Int.ofNat_le]
  exact and_iff_right (Int.natCast_nonneg n)

theorem inRange_natCast {w : Width} {n : Nat} (h : n ≤ 2 ^ w.bits - 1) : inRange w n = .ok (.bounded w n) :=
  inRange_of_between ((between_natCast_iff w n).mpr h)

theorem inRange_natCast_beyond {w : Width} {n : Nat} (h : 2 ^ w.bits - 1 < n) : inRange w n = .error .rangeError :=
  inRange_of_not_between fun hb => h.not_ge ((between_natCast_iff w n).mp hb)

/-- An instruction that ends with a result whose value is known answers with that value. -/
theorem answers_of_returnOk {i : Instr} {s : State} {u v : Result} (huv : u = v) (hi : exec i s = returnOk s u) :
    Answers i s (.ok v) := huv ▸ hi

theorem answers_of_eq_ok {i : Instr} {s : State} {x : Except ErrorKind Result} {v : Result} (hx : x = .ok v)
    (hi : exec i s = answer s x) : Answers i s (.ok v) := by
  subst hx
  exact answers_of_answer hi

theorem answers_of_eq_error {i : Instr} {s : State} {x : Except ErrorKind Result} {k : ErrorKind} (hx : x = .error k)
    (hi : exec i s = answer s x) : Answers i s (.error k) := by
  subst hx
  exact answers_of_answer hi

theorem biExact_answers {w : Width} {v : Int} {o : Option Nat} (s : State)
    (h : (if v < 0 ∨ (w.max : Int) < v then none else some v.toNat) = o) : Answers (.biExact w v) s (.ok (.exact w o)) :=
  answers_of_returnOk (congrArg _ h) rfl

theorem biClamp_answers {w : Width} {v c : Int} (s : State) (h : min (max v 0) (w.max : Int) = c) :
    Answers (.biClamp w v) s (.ok (.bounded w c.toNat)) :=
  answers_of_returnOk (congrArg _ (congrArg _ h)) rfl

theorem biTrunc_answers {w : Width} {v r : Int} (s : State) (h : v % 2 ^ w.bits = r) :
    Answers (.biTrunc w v) s (.ok (.bounded w r.toNat)) :=
  answers_of_returnOk (congrArg _ (congrArg _ h)) rfl

/-- Settles O14: inside the width every constructor keeps the value; outside it each does what its rule names. -/
theorem boundedConstructors : Obligations.BoundedConstructors := by
  unfold Obligations.BoundedConstructors
  intro w v s
  have hpos : (0 : Int) < 2 ^ w.bits := by positivity
  refine ⟨fun h => ?_, fun h => ?_, fun h => ?_, fun h => ?_, ?_⟩
  · have ⟨h0, hmax⟩ := h
    refine ⟨answers_of_eq_ok (inRange_of_between h) rfl, biExact_answers s (if_neg fun ho => (outside_iff w v).mp ho h),
      biClamp_answers s ?_, biTrunc_answers s (Int.emod_eq_of_lt h0 (by omega))⟩
    rw [max_eq_left h0, w.cast_max, min_eq_left hmax]
  · exact ⟨answers_of_eq_error (inRange_of_not_between h) rfl, biExact_answers s (if_pos ((outside_iff w v).mpr h))⟩
  · exact biClamp_answers s (c := 0) (by rw [max_eq_right h.le, min_eq_left (Int.natCast_nonneg _)])
  · exact biClamp_answers s (c := w.max) (min_eq_right ((w.cast_max.trans_lt h).le.trans (le_max_left v 0)))
  · have hr : ((v % 2 ^ w.bits).toNat : Int) = v % 2 ^ w.bits := Int.toNat_of_nonneg (Int.emod_nonneg v hpos.ne')
    refine ⟨(v % 2 ^ w.bits).toNat, ?_, ?_, biTrunc_answers s rfl⟩
    · exact (Int.toNat_lt' (by positivity)).mpr (by simpa using Int.emod_lt_of_pos v hpos)
    · rw [hr]
      exact Int.dvd_self_sub_emod

theorem fits_and {w : Width} {a b : Nat} (ha : a ≤ 2 ^ w.bits - 1) (hb : b ≤ 2 ^ w.bits - 1) :
    (w.fits a && w.fits b) = true :=
  Bool.and_eq_true_iff.mpr ⟨(fits_iff w a).mpr ha, (fits_iff w b).mpr hb⟩

/-- Settles O15: each operation is the range check of the exact result, and division checks its divisor. -/
theorem boundedArithmeticIsExact : Obligations.BoundedArithmeticIsExact := by
  unfold Obligations.BoundedArithmeticIsExact
  intro w a b s ha hb
  have htyped := fits_and ha hb
  refine ⟨fun h => ?_, fun h => ?_, fun h => ?_, fun h => ?_, fun h => ?_, fun h => ?_, fun h => ?_, fun h => ?_⟩
  · exact answers_of_eq_ok (inRange_natCast h) (atBoundary_typed _ htyped)
  · exact answers_of_eq_error (inRange_natCast_beyond h) (atBoundary_typed _ htyped)
  · have hsub : inRange w ((a : Int) - b) = .ok (.bounded w (a - b)) := by
      rw [← Nat.cast_sub h]
      exact inRange_natCast ((Nat.sub_le a b).trans ha)
    exact answers_of_eq_ok hsub (atBoundary_typed _ htyped)
  · have hneg : ¬ between 0 (2 ^ w.bits - 1) ((a : Int) - b) := fun hr => absurd hr.1 (by omega)
    exact answers_of_eq_error (inRange_of_not_between hneg) (atBoundary_typed _ htyped)
  · exact answers_of_eq_ok (inRange_natCast h) (atBoundary_typed _ htyped)
  · exact answers_of_eq_error (inRange_natCast_beyond h) (atBoundary_typed _ htyped)
  · exact ⟨a / b, a % b, (Nat.div_add_mod a b).symm, Nat.mod_lt a (Nat.pos_of_ne_zero h),
      answers_of_eq_ok (if_neg h) (atBoundary_typed _ htyped), answers_of_eq_ok (if_neg h) (atBoundary_typed _ htyped)⟩
  · exact ⟨answers_of_eq_error (if_pos h) (atBoundary_typed _ htyped),
      answers_of_eq_error (if_pos h) (atBoundary_typed _ htyped)⟩

theorem biCmp_answers {w : Width} {a b : Nat} {c : Cmp} (s : State) (ha : a ≤ 2 ^ w.bits - 1) (hb : b ≤ 2 ^ w.bits - 1)
    (h : (if a < b then .lt else if a = b then .eq else .gt) = c) : Answers (.biCmp w a b) s (.ok (.cmp c)) :=
  answers_of_returnOk (congrArg _ h) (atBoundary_typed _ (fits_and ha hb))

/-- Settles O16: the comparison has one branch for each of the three orders. -/
theorem boundedCompare : Obligations.BoundedCompare := by
  unfold Obligations.BoundedCompare
  intro w a b s ha hb
  refine ⟨fun h => biCmp_answers s ha hb (if_pos h), ?_, fun h => ?_⟩
  · rintro rfl
    exact biCmp_answers s ha hb ((if_neg (lt_irrefl a)).trans (if_pos rfl))
  · exact biCmp_answers s ha hb ((if_neg h.asymm).trans (if_neg h.ne'))

/-! ## Rescale (R215 to R224) -/

/-- R224: a divisor that is odd leaves no ties, so rounding a half up gives the one nearest integer. -/
theorem nearest_rnd (a : Nat) {b : Nat} (hb : b % 2 = 1) : Nearest (rnd a b) a b := by
  have hdiv := Nat.div_add_mod (2 * a + b) (2 * b)
  have hlt := Nat.mod_lt (2 * a + b) (by omega : 0 < 2 * b)
  have hcomm : 2 * b * rnd a b = 2 * (rnd a b * b) := by ring
  rw [← rnd, hcomm] at hdiv
  constructor <;> omega

/-- The nearest integer is the rounded one. -/
theorem Nearest.rnd_eq {m a b : Nat} (h : Nearest m a b) : rnd a b = m := by
  obtain ⟨hlow, hhigh⟩ := h
  refine Nat.div_eq_of_lt_le ?_ ?_
  · calc m * (2 * b) = 2 * (m * b) := by ring
      _ ≤ 2 * a + b := by omega
  · calc 2 * a + b < 2 * (m * b) + 2 * b := by omega
      _ = (m + 1) * (2 * b) := by ring

/-- Rescaling to a finer scale loses nothing: the nearest point there is nearer to the old point than to any other. -/
theorem Nearest.invert {m v a b : Nat} (h : Nearest m (v * b) a) (hab : a ≤ b) : Nearest v (m * a) b := by
  obtain ⟨hlow, hhigh⟩ := h
  constructor <;> omega

theorem m1Width_max_le (t : VType) : t.m1Width.max ≤ t.m2Width.max := by cases t <;> decide

/-- R217, R221. -/
theorem viewM1_nearest (t : VType) (x : Nat) : Nearest (viewM1 t x) (x * t.m1Width.max) t.m2Width.max :=
  nearest_rnd _ (Width.max_odd _)

/-- R216, R219. -/
theorem magOfM1_nearest {t : VType} (ht : t.centered = false) (v : Nat) :
    Nearest (magOfM1 t v) (v * t.m2Width.max) t.m1Width.max := by
  rw [magOfM1_linear ht]
  exact nearest_rnd _ (Width.max_odd _)

theorem eq_pbv_of_centered {t : VType} (h : t.centered = true) : t = .pbv := by
  cases t with
  | pbv => rfl
  | vel | amt | ccv => cases h

/-- R218: up to the center a pitch bend value is shifted. -/
theorem magOfM1_pbv_of_le {v : Nat} (h : v ≤ 8192) : magOfM1 .pbv v = v * 262144 :=
  (magOfM1_pbv v).trans (if_pos h)

/-- R218: above the center the upper half is widened linearly. -/
theorem magOfM1_pbv_of_gt {v : Nat} (h : 8192 < v) :
    magOfM1 .pbv v = 2147483648 + rnd ((v - 8192) * 2147483647) 8191 :=
  (magOfM1_pbv v).trans (if_neg h.not_ge)

theorem viewM1_magOfM1_pbv {v : Nat} (h : v ≤ 16383) : viewM1 .pbv (magOfM1 .pbv v) = v := by
  have hnear : Nearest v (magOfM1 .pbv v * 16383) 4294967295 := by
    rcases Nat.lt_or_ge 8192 v with hv | hv
    · obtain ⟨u, rfl⟩ := Nat.exists_eq_add_of_lt hv
      rw [magOfM1_pbv_of_gt hv, Nat.add_assoc, Nat.add_sub_cancel_left]
      obtain ⟨hlow, hhigh⟩ := nearest_rnd ((u + 1) * 2147483647) (b := 8191) rfl
      constructor <;> linarith
    · rw [magOfM1_pbv_of_le hv]
      constructor <;> omega
  exact hnear.rnd_eq

/-- R223: narrowing undoes widening. -/
theorem viewM1_magOfM1 (t : VType) {v : Nat} (h : v ≤ t.m1Width.max) : viewM1 t (magOfM1 t v) = v := by
  cases ht : t.centered with
  | false => exact ((magOfM1_nearest ht v).invert (m1Width_max_le t)).rnd_eq
  | true =>
    obtain rfl := eq_pbv_of_centered ht
    exact viewM1_magOfM1_pbv h

theorem viewM1_mono (t : VType) {x x' : Nat} (h : x ≤ x') : viewM1 t x ≤ viewM1 t x' :=
  rnd_mono _ (Nat.mul_le_mul_right _ h)

/-- R223: what a non-decreasing map undoes is strictly increasing. -/
theorem magOfM1_strictMono (t : VType) {v v' : Nat} (h : v < v') (h' : v' ≤ t.m1Width.max) :
    magOfM1 t v < magOfM1 t v' := by
  by_contra hle
  have hview := viewM1_mono t (Nat.not_lt.mp hle)
  rw [viewM1_magOfM1 t h', viewM1_magOfM1 t (h.le.trans h')] at hview
  exact h.not_ge hview

theorem magOfM1_zero (t : VType) : magOfM1 t 0 = 0 := by cases t <;> decide

theorem magOfM1_max (t : VType) : magOfM1 t t.m1Width.max = t.m2Width.max := by cases t <;> decide

/-! ### The four commands -/

theorem vvFromM1_answers {t : VType} {v m : Nat} (s : State) (hv : v ≤ t.m1Width.max) (hm : magOfM1 t v = m) :
    Answers (.vvFromM1 t v) s (.ok (.validated t m)) :=
  answers_of_returnOk (congrArg _ hm) (atBoundary_typed _ ((fits_iff _ v).mpr hv))

theorem vvFromM2_answers {t : VType} {x : Nat} (s : State) (hx : x ≤ t.m2Width.max) :
    Answers (.vvFromM2 t x) s (.ok (.validated t x)) :=
  answers_of_returnOk rfl (atBoundary_typed _ ((fits_iff _ x).mpr hx))

theorem vvViewM1_answers {t : VType} {x v : Nat} (s : State) (hx : x ≤ t.m2Width.max) (hv : viewM1 t x = v) :
    Answers (.vvViewM1 t x) s (.ok (.bounded t.m1Width v)) :=
  answers_of_returnOk (congrArg _ hv) (atBoundary_typed _ ((fits_iff _ x).mpr hx))

theorem vvViewM2_answers {t : VType} {x : Nat} (s : State) (hx : x ≤ t.m2Width.max) :
    Answers (.vvViewM2 t x) s (.ok (.bounded t.m2Width x)) :=
  answers_of_returnOk rfl (atBoundary_typed _ ((fits_iff _ x).mpr hx))

/-- Settles O17: each rescale is a rounded quotient by an odd divisor. -/
theorem validatedValuesRescaleToNearest : Obligations.ValidatedValuesRescaleToNearest := by
  unfold Obligations.ValidatedValuesRescaleToNearest
  intro t s
  refine ⟨fun v hv ht => ⟨_, magOfM1_nearest ht v, vvFromM1_answers s hv rfl⟩, fun v hv ht => ?_, fun x hx =>
    ⟨vvFromM2_answers s hx, vvViewM2_answers s hx, _, viewM1_nearest t x, vvViewM1_answers s hx rfl⟩⟩
  obtain rfl := eq_pbv_of_centered ht
  exact ⟨fun h => vvFromM1_answers s hv (magOfM1_pbv_of_le h),
    fun h => ⟨_, nearest_rnd _ rfl, vvFromM1_answers s hv (magOfM1_pbv_of_gt h)⟩⟩

/-- Settles O18: narrowing is non-decreasing and undoes widening, from which the other laws follow. -/
theorem rescaleLaws : Obligations.RescaleLaws := by
  unfold Obligations.RescaleLaws
  intro t s
  have hcenter : magOfM1 .pbv 8192 = 0x80000000 := magOfM1_pbv_of_le (le_refl 8192)
  refine ⟨fun v hv => ?_, fun v v' m m' hlt hv' hm hm' => ?_, fun x x' v v' hle hx' hv hv' => ?_, ?_, ?_, ?_, ?_⟩
  · exact ⟨magOfM1 t v, magOfM1_le t hv, vvFromM1_answers s hv rfl,
      vvViewM1_answers s (magOfM1_le t hv) (viewM1_magOfM1 t hv)⟩
  · have e := answers_unique hm (vvFromM1_answers s (hlt.le.trans hv') rfl)
    have e' := answers_unique hm' (vvFromM1_answers s hv' rfl)
    simp only [Response.ok.injEq, Result.validated.injEq, true_and] at e e'
    rw [e, e']
    exact magOfM1_strictMono t hlt hv'
  · have e := answers_unique hv (vvViewM1_answers s (hle.trans hx') rfl)
    have e' := answers_unique hv' (vvViewM1_answers s hx' rfl)
    simp only [Response.ok.injEq, Result.bounded.injEq, true_and] at e e'
    rw [e, e']
    exact viewM1_mono t hle
  · exact vvFromM1_answers s (Nat.zero_le _) (magOfM1_zero t)
  · exact vvFromM1_answers s (le_refl _) (magOfM1_max t)
  · exact vvViewM1_answers s (t := .pbv) (by decide) (hcenter ▸ viewM1_magOfM1_pbv (by decide))
  · exact vvFromM1_answers s (t := .pbv) (by decide) hcenter

/-! ## The fields of EV_MAKE (R230, R231) -/

/-- A check builds a field of which `P` holds when the raw field is inside its range, and answers RANGE_ERROR when it is
not. -/
def Checks {α : Type} (inside : Prop) (P : α → Prop) (x : Except ErrorKind α) : Prop :=
  (inside → ∃ a, x = .ok a ∧ P a) ∧ (¬ inside → x = .error .rangeError)

section Checks

variable {α β : Type} {R S : Prop} {P : α → Prop} {Q : β → Prop} {x : Except ErrorKind α}

theorem Checks.accepts {a : α} (hR : R) (ha : P a) : Checks R P (.ok a) := ⟨fun _ => ⟨a, rfl, ha⟩, fun h => absurd hR h⟩

/-- The check that refuses what is outside a range. -/
theorem Checks.unless {c : Prop} [Decidable c] {a : α} (hc : c ↔ ¬ R) (ha : R → P a) :
    Checks R P (if c then .error .rangeError else .ok a) :=
  ⟨fun h => ⟨a, if_neg fun hx => hc.mp hx h, ha h⟩, fun h => if_pos (hc.mpr h)⟩

theorem Checks.map {f : α → β} (hx : Checks R P x) (hf : ∀ a, P a → Q (f a)) : Checks R Q (x.map f) := by
  refine ⟨fun h => ?_, fun h => ?_⟩
  · obtain ⟨a, rfl, ha⟩ := hx.1 h
    exact ⟨f a, rfl, hf a ha⟩
  · rw [hx.2 h]; rfl

/-- Two checks in a row: the second one is reached when the first one accepts. -/
theorem Checks.bind {f : α → Except ErrorKind β} (hx : Checks R P x) (hf : ∀ a, P a → Checks S Q (f a)) :
    Checks (R ∧ S) Q (x >>= f) := by
  by_cases hR : R
  · obtain ⟨a, rfl, ha⟩ := hx.1 hR
    exact ⟨fun h => (hf a ha).1 h.2, fun h => (hf a ha).2 fun hS => h ⟨hR, hS⟩⟩
  · exact ⟨fun h => absurd h.1 hR, fun _ => by rw [hx.2 hR]; rfl⟩

/-- The last check of a construction, whose field completes the value. -/
theorem Checks.last {f : α → β} (hx : Checks R P x) (hf : ∀ a, P a → Q (f a)) : Checks R Q (x >>= fun a => .ok (f a)) := by
  have := hx.map hf
  cases x <;> exact this

end Checks

theorem holds_ofNat {n : Nat} {v : Int} (h0 : 0 ≤ v) (h : v < 2 ^ n) : Holds (BitVec.ofNat n v.toNat) v := by
  have hlt : v.toNat < 2 ^ n := (Int.toNat_lt' (by positivity)).mpr (by simpa using h)
  rw [Holds, BitVec.toNat_ofNat, Nat.mod_eq_of_lt hlt, Int.toNat_of_nonneg h0]

theorem rangeField_checks {n : Nat} {lo hi : Int} (hlo : 0 ≤ lo) (hhi : hi < 2 ^ n) (v : Int) :
    Checks (between lo hi v) (Holds · v) (rangeField n lo hi v) :=
  .unless (by rw [between]; omega) fun h => holds_ofNat (hlo.trans h.1) (h.2.trans_lt hhi)

/-- `hi` is the greatest value of the field. -/
theorem uField_checks {n : Nat} {hi : Int} (hhi : 2 ^ n - 1 = hi) (v : Int) :
    Checks (between 0 hi v) (Holds · v) (uField n v) := by
  subst hhi
  exact rangeField_checks le_rfl (Int.sub_one_lt_of_le le_rfl) v

theorem u4_checks (v : Int) : Checks (between 0 15 v) (Holds · v) (uField 4 v) := uField_checks (by norm_num) v
theorem u7_checks (v : Int) : Checks (between 0 127 v) (Holds · v) (uField 7 v) := uField_checks (by norm_num) v
theorem u8_checks (v : Int) : Checks (between 0 255 v) (Holds · v) (uField 8 v) := uField_checks (by norm_num) v
theorem u32_checks (v : Int) : Checks (between 0 4294967295 v) (Holds · v) (uField 32 v) := uField_checks (by norm_num) v

/-- An omitted field is the field 0. -/
theorem uFieldOr0_checks {n : Nat} {hi : Int} (hhi : 2 ^ n - 1 = hi) (v : Option Int) :
    Checks (between 0 hi (v.getD 0)) (Holds · (v.getD 0)) (uFieldOr0 n v) := by
  cases v with
  | some v => exact uField_checks hhi v
  | none =>
    have hpos : (0 : Int) < 2 ^ n := by positivity
    exact .accepts ⟨le_rfl, show (0 : Int) ≤ hi by omega⟩ (by simp [Holds])

theorem numberValue_checks (n : RawNumber) : Checks n.InRange n.Gives (numberValue n) := by
  cases n with
  | raw v => exact u7_checks v
  | typed m => exact .accepts trivial rfl

theorem toNat_le_max {w : Width} {v : Int} (h : between 0 (2 ^ w.bits - 1) v) : v.toNat ≤ w.max :=
  Int.toNat_le.mpr (w.cast_max ▸ h.2)

/-- R230: the magnitude has the resolution of its type, so that no bit of it is lost in the field. -/
theorem rawMagnitude_checks (t : VType) (v : RawValue) :
    Checks (v.InRange t) (fun mag => v.Gives t mag ∧ mag ≤ t.m2Width.max) (rawMagnitude t v) := by
  cases v with
  | m1 v => exact .unless (outside_iff _ v) fun h => ⟨rfl, magOfM1_le t (toNat_le_max h)⟩
  | m2 x => exact .unless (outside_iff _ x) fun h => ⟨Int.toNat_of_nonneg h.1, toNat_le_max h⟩

theorem rawValueField_checks {n : Nat} {t : VType} (hn : t.m2Width.bits = n) (v : RawValue) :
    Checks (v.InRange t) (fun x => v.Gives t x.toNat) (rawValueField n t v) := by
  subst hn
  refine (rawMagnitude_checks t v).map fun mag h => ?_
  rw [BitVec.toNat_ofNat, Nat.mod_eq_of_lt (Nat.lt_of_le_pred (Nat.two_pow_pos _) h.2)]
  exact h.1

/-- An omitted bank is NoBank. -/
theorem bankValue_checks (b : Option RawBank) :
    Checks (b.getD .noBank).InRange (RawBank.Gives · (b.getD .noBank)) (bankValue b) := by
  obtain _ | _ | ⟨msb, lsb⟩ := b
  · exact .accepts trivial rfl
  · exact .accepts trivial rfl
  · exact (u7_checks msb).bind fun _ hm => (u7_checks lsb).last fun _ hl => ⟨_, _, rfl, hm, hl⟩

theorem manufacturerValue_checks (m : RawManufacturer) :
    Checks m.InRange (RawManufacturer.Gives · m) (manufacturerValue m) := by
  cases m with
  | one id => exact (rangeField_checks (by decide) (by decide) id).map fun _ h => ⟨_, rfl, h⟩
  | three b1 b2 => exact (u7_checks b1).bind fun _ h1 => (u7_checks b2).last fun _ h2 => ⟨_, _, rfl, h1, h2⟩

theorem dataField_checks (vs : List Int) :
    Checks (∀ v ∈ vs, between 0 127 v) (fun d => d.map (fun x => (x.toNat : Int)) = vs) (dataField vs) := by
  induction vs with
  | nil => exact .accepts nofun rfl
  | cons v vs ih =>
    rw [List.forall_mem_cons]
    exact (u7_checks v).bind fun _ hx => ih.last fun _ hxs => congrArg₂ List.cons hx hxs

/-- R230, R231: every field is checked against its range and built as its raw field gives it. -/
theorem buildEvent_checks (raw : RawEvent) : Checks raw.InRange raw.Gives (buildEvent raw) := by
  cases raw with
  | noteOff | noteOn =>
    exact (u4_checks _).bind fun _ hg => (u4_checks _).bind fun _ hc => (numberValue_checks _).bind fun _ hn =>
      (rawValueField_checks rfl _).bind fun _ hv => (uFieldOr0_checks (by norm_num) _).bind fun _ ht =>
        (uFieldOr0_checks (by norm_num) _).last fun _ hd => ⟨_, _, _, _, _, _, rfl, hg, hc, hn, hv, ht, hd⟩
  | polyPressure | controlChange =>
    exact (u4_checks _).bind fun _ hg => (u4_checks _).bind fun _ hc => (numberValue_checks _).bind fun _ hn =>
      (rawValueField_checks rfl _).last fun _ hv => ⟨_, _, _, _, rfl, hg, hc, hn, hv⟩
  | programChange =>
    exact (u4_checks _).bind fun _ hg => (u4_checks _).bind fun _ hc => (u7_checks _).bind fun _ hp =>
      (bankValue_checks _).last fun _ hb => ⟨_, _, _, _, rfl, hg, hc, hp, hb⟩
  | channelPressure | pitchBend =>
    exact (u4_checks _).bind fun _ hg => (u4_checks _).bind fun _ hc =>
      (rawValueField_checks rfl _).last fun _ hv => ⟨_, _, _, rfl, hg, hc, hv⟩
  | pncRegistered | pncAssignable =>
    exact (u4_checks _).bind fun _ hg => (u4_checks _).bind fun _ hc => (numberValue_checks _).bind fun _ hn =>
      (u8_checks _).bind fun _ hi => (u32_checks _).last fun _ hv => ⟨_, _, _, _, _, rfl, hg, hc, hn, hi, hv⟩
  | tuneRequest => exact (u4_checks _).last fun _ hg => ⟨_, rfl, hg⟩
  | sysex7 =>
    exact (u4_checks _).bind fun _ hg => (manufacturerValue_checks _).bind fun _ hm =>
      (dataField_checks _).last fun _ hd => ⟨_, _, _, rfl, hg, hm, hd⟩
  | universalSysex7 =>
    exact (u4_checks _).bind fun _ hg => (u7_checks _).bind fun _ hdev => (u7_checks _).bind fun _ h1 =>
      (u7_checks _).bind fun _ h2 => (dataField_checks _).last fun _ hd => ⟨_, _, _, _, _, rfl, hg, hdev, h1, h2, hd⟩

/-- Settles O19: EV_MAKE answers with what its checks build. -/
theorem eventConstruction : Obligations.EventConstruction := by
  unfold Obligations.EventConstruction
  intro raw s
  obtain ⟨hok, herror⟩ := buildEvent_checks raw
  refine ⟨fun h => ?_, fun h => answers_of_error Result.event (herror h) rfl⟩
  obtain ⟨e, he, hgives⟩ := hok h
  have hwf := buildEvent_yields raw
  rw [he] at hwf
  exact ⟨e, hgives, hwf, answers_of_ok Result.event he rfl⟩

/-- R232: the range check of the raw integer of a built number accepts it and gives the number back. -/
theorem numberValue_typed (n : U7) : numberValue (.typed n) = numberValue (.raw n.toNat) := by
  obtain ⟨m, hm, hval⟩ := (u7_checks n.toNat).1 ⟨Int.natCast_nonneg _, Int.lt_add_one_iff.mp (by exact_mod_cast n.isLt)⟩
  rw [numberValue, numberValue, hm, BitVec.eq_of_toNat_eq (Int.ofNat_inj.mp hval)]

theorem exec_evMake_congr {raw raw' : RawEvent} (h : buildEvent raw = buildEvent raw') (s : State) :
    exec (.evMake raw) s = exec (.evMake raw') s :=
  congrArg (fun x : Except ErrorKind Event => answer s (x.map .event)) h

/-- Settles O20: the number is the only field in which the two requests differ, and its check gives the same value. -/
theorem typedNumbersBuildTheSameEvent : Obligations.TypedNumbersBuildTheSameEvent := by
  unfold Obligations.TypedNumbersBuildTheSameEvent
  intro g c n v aty ad i x s
  refine ⟨?_, ?_, ?_, ?_, ?_, ?_⟩ <;> exact exec_evMake_congr (by simp only [buildEvent, numberValue_typed]) s

end Sys2Proof.Machine
end

section
/-! PROOFS. 41_midi1_bytes.md: the layout of each MIDI 1.0 message in both directions, what stands between the framing bytes of
SysEx, the round trip through bytes, and the received messages, which have the response of M1_FROMBYTES of their bytes. -/

namespace Sys2Proof.Machine

/-! ## The two commands -/

theorem m1ToBytes_answers {e : Event} {a b : Option Bool} {m : List Byte} (s : State) (hwf : e.wf = true)
    (h : toBytes e (framing a) (framing b) = .ok m) : Answers (.m1ToBytes e a b) s (.ok (.bytes m)) :=
  answers_of_ok Result.bytes h (atBoundary_typed _ hwf)

theorem m1ToBytes_fails {e : Event} {a b : Option Bool} {k : ErrorKind} (s : State) (hwf : e.wf = true)
    (h : toBytes e (framing a) (framing b) = .error k) : Answers (.m1ToBytes e a b) s (.error k) :=
  answers_of_error Result.bytes h (atBoundary_typed _ hwf)

theorem m1FromBytes_answers {m : List Byte} {grp : Option U4} {e : Event} (s : State)
    (h : fromBytes m (groupOrDefault grp) = .ok e) : Answers (.m1FromBytes m grp) s (.ok (.event e)) :=
  answers_of_ok Result.event h rfl

theorem m1FromBytes_fails {m : List Byte} {grp : Option U4} {k : ErrorKind} (s : State)
    (h : fromBytes m (groupOrDefault grp) = .error k) : Answers (.m1FromBytes m grp) s (.error k) :=
  answers_of_error Result.event h rfl

/-! ## SysEx data (R500, R501) -/

theorem parseLead_one (g : U4) {id : U7} (d : List U7) (hwf : (ManufacturerId.one id).wf = true) :
    parseLead g id d = .ok (.sysex7 g (.one id) d) := by
  simp only [ManufacturerId.wf, Bool.and_eq_true, decide_eq_true_eq] at hwf
  obtain ⟨hlo, hhi⟩ := hwf
  have hne : id ≠ 0x00#7 := by
    rintro rfl
    exact absurd hlo (by decide)
  exact (if_neg hne).trans (if_pos hhi)

theorem parseLead_three (g : U4) (b1 b2 : U7) (d : List U7) :
    parseLead g 0x00#7 (b1 :: b2 :: d) = .ok (.sysex7 g (.three b1 b2) d) := rfl

theorem parseLead_universal (g : U4) (k : UniversalKind) (dev s1 s2 : U7) (d : List U7) :
    parseLead g (universalLead k) (dev :: s1 :: s2 :: d) = .ok (.universalSysex7 g k dev s1 s2 d) := by
  cases k <;> rfl

/-- SX_PARSE undoes SX_FRAME. -/
theorem parse_frame {e : Event} (hwf : e.wf = true) (he : e.isSysEx = true) :
    parse ((frame e).map byte7) e.group = .ok e := by
  cases e with
  | sysex7 g m d =>
    cases m with
    | one id => exact (parse_byte7 _ g).trans (parseLead_one g d hwf)
    | three b1 b2 => exact (parse_byte7 _ g).trans (parseLead_three g b1 b2 d)
  | universalSysex7 g k dev s1 s2 d => exact (parse_byte7 _ g).trans (parseLead_universal g k dev s1 s2 d)
  | _ => cases he

/-! ## SysEx between its framing bytes (R313) -/

theorem toBytes_of_isSysEx {e : Event} (he : e.isSysEx = true) (a b : Bool) : toBytes e a b = sysexBytes e a b := by
  cases e with
  | sysex7 | universalSysex7 => rfl
  | _ => cases he

theorem sysexOfBytes_frame {e : Event} (hwf : e.wf = true) (he : e.isSysEx = true) :
    sysexOfBytes e.group ((frame e).map byte7 ++ [0xF7#8]) = .ok e := by
  rw [sysexOfBytes_framed _ _ (all_is7_byte7 _), parse_frame hwf he]

/-- What does not end with the one 0xF7 of its end byte, or is not 7-bit before it, is no SysEx message. -/
theorem sysexOfBytes_unframed (g : U4) {rest : List Byte} (h : ¬ ∃ d, rest = d ++ [0xF7#8] ∧ d.all is7 = true) :
    sysexOfBytes g rest = .error .malformedWireData := by
  unfold sysexOfBytes
  split
  · rename_i hlast
    split
    · rename_i h7
      exact absurd ⟨rest.dropLast, (List.dropLast_append_getLast? _ hlast).symm, h7⟩ h
    · rfl
  · rfl

/-- A message that starts with a data byte is malformed. -/
theorem fromBytes_of_is7 (g : U4) {b0 : Byte} (h : is7 b0 = true) (rest : List Byte) :
    fromBytes (b0 :: rest) g = .error .malformedWireData := by
  rw [is7_iff] at h
  have hne {c : Byte} (hc : 0x80 ≤ c.toNat) : b0 ≠ c := by
    rintro rfl
    omega
  refine fromBytes_malformed fun e he => ?_
  obtain ⟨-, ⟨h0, -⟩ | ⟨h0, -⟩ | ⟨h0, -⟩⟩ := wholeMessage_of_fromBytes (hne (by decide)) he
  · rw [isChannel3_iff] at h0
    omega
  · rw [isChannel2_iff] at h0
    omega
  · exact hne (by decide) h0

/-- 7-bit bytes without the end byte are no SysEx message. -/
theorem sysexOfBytes_without_end (g : U4) (d : List U7) :
    sysexOfBytes g (d.map byte7) = .error .malformedWireData := by
  refine sysexOfBytes_unframed g ?_
  rintro ⟨d', hd, -⟩
  have h7 := List.all_eq_true.mp (all_is7_byte7 d) 0xF7#8 (by simp [hd])
  exact absurd h7 (by decide)

/-- R315: with a framing byte left out the bytes of a SysEx Event do not decode. -/
theorem fromBytes_sysexBytes_unframed {e : Event} {a b : Bool} {m : List Byte} (g : U4) (he : e.isSysEx = true)
    (hab : (a && b) = false) (hm : sysexBytes e a b = .ok m) : fromBytes m g = .error .malformedWireData := by
  cases hm
  cases a with
  | false =>
    obtain ⟨x, d, hd⟩ := List.exists_cons_of_ne_nil (frame_ne_nil he)
    rw [hd]
    exact fromBytes_of_is7 g (is7_byte7 x) _
  | true =>
    cases hab
    simpa using (fromBytes_sysex g _).trans (sysexOfBytes_without_end g (frame e))

/-! ## The round trip through bytes (R315) -/

theorem velOfByte_velByte (x : U16) : velOfByte (velByte x) = BitVec.ofNat 16 (magOfM1 .vel (viewM1 .vel x.toNat)) := by
  rw [velOfByte, velByte_toNat]

theorem amtOfByte_amtByte (x : U32) : amtOfByte (amtByte x) = BitVec.ofNat 32 (magOfM1 .amt (viewM1 .amt x.toNat)) := by
  rw [amtOfByte, amtByte_toNat]

theorem ccvOfByte_ccvByte (x : U32) : ccvOfByte (ccvByte x) = BitVec.ofNat 32 (magOfM1 .ccv (viewM1 .ccv x.toNat)) := by
  rw [ccvOfByte, ccvByte_toNat]

theorem pbvOfM1_bendJoin (x : U32) : pbvOfM1 (bendJoin (bendLsb (pbvM1 x)) (bendMsb (pbvM1 x))) =
    BitVec.ofNat 32 (magOfM1 .pbv (viewM1 .pbv x.toNat)) := by
  rw [bendJoin_split _ (pbvM1_lt x)]
  rfl

/-- A note that MIDI 1.0 can carry has no attribute. -/
theorem attribute_eq_zero {aty : Byte} {ad : U16} (h : (decide (aty ≠ 0#8) || decide (ad ≠ 0#16)) ≠ true) :
    aty = 0#8 ∧ ad = 0#16 := by
  simpa using h

theorem proj1_of_isSysEx {e : Event} (he : e.isSysEx = true) : proj1 e = e := by
  cases e with
  | sysex7 | universalSysex7 => rfl
  | _ => cases he

theorem fromBytes_sysexBytes {e : Event} (hwf : e.wf = true) (he : e.isSysEx = true) :
    ∃ m, sysexBytes e true true = .ok m ∧ fromBytes m e.group = .ok (proj1 e) :=
  ⟨_, rfl, by simpa [proj1_of_isSysEx he] using (fromBytes_sysex _ _).trans (sysexOfBytes_frame hwf he)⟩

/-- Each form decodes, with every validated value at its MIDI 1.0 resolution. -/
theorem fromBytes_toBytes {e : Event} (hwf : e.wf = true) (h : ¬ only2 e) :
    ∃ m, toBytes e true true = .ok m ∧ fromBytes m e.group = .ok (proj1 e) := by
  simp only [only2, not_or] at h
  obtain ⟨hreg, hasg, h2⟩ := h
  cases e with
  | noteOff g c n v aty ad =>
    obtain ⟨rfl, rfl⟩ := attribute_eq_zero h2
    refine ⟨_, rfl, (fromBytes_noteOff g c _ _).trans ?_⟩
    rw [noteOffOfBytes, with7x2_ok _ (is7_byte7 n) (is7_velByte v), low7_byte7, velOfByte_velByte, proj1]
  | noteOn g c n v aty ad =>
    obtain ⟨rfl, rfl⟩ := attribute_eq_zero h2
    refine ⟨_, rfl, (fromBytes_noteOn g c _ _).trans ?_⟩
    rw [noteOnOfBytes, with7x2_ok _ (is7_byte7 n) (is7_velByte v), low7_byte7, velOfByte_velByte, proj1]
  | polyPressure g c n x =>
    refine ⟨_, rfl, (fromBytes_polyPressure g c _ _).trans ?_⟩
    rw [polyPressureOfBytes, with7x2_ok _ (is7_byte7 n) (is7_amtByte x), low7_byte7, amtOfByte_amtByte, proj1]
  | controlChange g c n x =>
    refine ⟨_, rfl, (fromBytes_controlChange g c _ _).trans ?_⟩
    rw [controlChangeOfBytes, with7x2_ok _ (is7_byte7 n) (is7_ccvByte x), low7_byte7, ccvOfByte_ccvByte, proj1]
  | programChange g c p bank =>
    obtain rfl : bank = .noBank := by simpa [has2Only] using h2
    refine ⟨_, rfl, (fromBytes_programChange g c _).trans ?_⟩
    rw [programChangeOfBytes, with7_ok _ (is7_byte7 p), low7_byte7, proj1]
  | channelPressure g c x =>
    refine ⟨_, rfl, (fromBytes_channelPressure g c _).trans ?_⟩
    rw [channelPressureOfBytes, with7_ok _ (is7_amtByte x), amtOfByte_amtByte, proj1]
  | pitchBend g c x =>
    refine ⟨_, rfl, (fromBytes_pitchBend g c _ _).trans ?_⟩
    rw [pitchBendOfBytes, with7x2_ok _ (is7_bendLsb _) (is7_bendMsb _ (pbvM1_lt x)), pbvOfM1_bendJoin, proj1]
  | pncRegistered => exact absurd rfl hreg
  | pncAssignable => exact absurd rfl hasg
  | tuneRequest g => exact ⟨_, rfl, fromBytes_tuneRequest g⟩
  | sysex7 | universalSysex7 => exact fromBytes_sysexBytes hwf rfl

/-- A magnitude on the MIDI 1.0 grid is the one its MIDI 1.0 view widens to. -/
theorem ofNat_magOfM1_viewM1 {t : VType} {n : Nat} {x : BitVec n} (h : onGrid t x.toNat) :
    BitVec.ofNat n (magOfM1 t (viewM1 t x.toNat)) = x := by
  obtain ⟨v, hv, hx⟩ := h
  rw [hx, viewM1_magOfM1 t hv, ← hx, BitVec.ofNat_toNat, BitVec.setWidth_eq]

theorem proj1_of_onGrid {e : Event} (h : eventOnGrid e) : proj1 e = e := by
  cases e with
  | noteOff | noteOn | polyPressure | controlChange | channelPressure | pitchBend =>
    rw [proj1, ofNat_magOfM1_viewM1 h]
  | _ => rfl

/-- Settles O27: every form decodes to the projection of its Event, which is the Event itself on the grid; a SysEx message
needs both framing bytes. -/
theorem byteRoundTrip : Obligations.ByteRoundTrip := by
  unfold Obligations.ByteRoundTrip
  intro e s hwf
  refine ⟨fun h => ?_, proj1_of_onGrid, fun a b m he hab hm => ?_⟩
  · obtain ⟨m, hm, hd⟩ := fromBytes_toBytes hwf h
    exact ⟨m, m1ToBytes_answers s hwf hm, m1FromBytes_answers s hd⟩
  · have hbytes : toBytes e a b = .ok m := ok_of_answers (fun _ _ => Result.bytes.inj) hm (atBoundary_typed _ hwf)
    rw [toBytes_of_isSysEx he] at hbytes
    exact m1FromBytes_fails s (fromBytes_sysexBytes_unframed _ he hab hbytes)

/-! ## Channel messages in bytes (R141, R305 to R311) -/

/-- A channel message is its status byte and its data bytes, whatever the framing flags are. -/
theorem m1ToBytes_channel {e : Event} {a b : Option Bool} (n c : U4) {d d' : List Byte} (s : State) (hwf : e.wf = true)
    (h : toBytes e (framing a) (framing b) = .ok (byteOf n c :: d)) (hd : d = d') :
    Answers (.m1ToBytes e a b) s (.ok (.bytes (statusByte n.toNat c :: d'))) := by
  rw [statusByte_eq, ← hd]
  exact m1ToBytes_answers s hwf h

/-- A channel message has the response its form decodes to. -/
theorem m1FromBytes_channel {grp : Option U4} (n c : U4) {d : List Byte} {x : Except ErrorKind Event} (s : State)
    (h : fromBytes (byteOf n c :: d) (groupOrDefault grp) = x) :
    Answers (.m1FromBytes (statusByte n.toNat c :: d) grp) s (responseOf (x.map .event)) := by
  rw [statusByte_eq, ← h]
  exact answers_of_answer rfl

section Decode

variable (g c : U4) {d1 d2 : Byte}

theorem noteOffOfBytes_ok (h1 : d1.toNat < 0x80) (h2 : d2.toNat < 0x80) : noteOffOfBytes g c d1 d2 =
    .ok (.noteOff g c (BitVec.ofNat 7 d1.toNat) (BitVec.ofNat 16 (widen d2.toNat 7 16)) 0 0) := by
  rw [ofNat_toNat_low7, ← velOfByte_eq]
  exact with7x2_ok _ ((is7_iff d1).mpr h1) ((is7_iff d2).mpr h2)

theorem noteOnOfBytes_ok (h1 : d1.toNat < 0x80) (h2 : d2.toNat < 0x80) : noteOnOfBytes g c d1 d2 =
    .ok (.noteOn g c (BitVec.ofNat 7 d1.toNat) (BitVec.ofNat 16 (widen d2.toNat 7 16)) 0 0) := by
  rw [ofNat_toNat_low7, ← velOfByte_eq]
  exact with7x2_ok _ ((is7_iff d1).mpr h1) ((is7_iff d2).mpr h2)

theorem polyPressureOfBytes_ok (h1 : d1.toNat < 0x80) (h2 : d2.toNat < 0x80) : polyPressureOfBytes g c d1 d2 =
    .ok (.polyPressure g c (BitVec.ofNat 7 d1.toNat) (BitVec.ofNat 32 (widen d2.toNat 7 32))) := by
  rw [ofNat_toNat_low7, ← amtOfByte_eq]
  exact with7x2_ok _ ((is7_iff d1).mpr h1) ((is7_iff d2).mpr h2)

theorem controlChangeOfBytes_ok (h1 : d1.toNat < 0x80) (h2 : d2.toNat < 0x80) : controlChangeOfBytes g c d1 d2 =
    .ok (.controlChange g c (BitVec.ofNat 7 d1.toNat) (BitVec.ofNat 32 (widen d2.toNat 7 32))) := by
  rw [ofNat_toNat_low7, ← ccvOfByte_eq]
  exact with7x2_ok _ ((is7_iff d1).mpr h1) ((is7_iff d2).mpr h2)

theorem programChangeOfBytes_ok (h1 : d1.toNat < 0x80) : programChangeOfBytes g c d1 =
    .ok (.programChange g c (BitVec.ofNat 7 d1.toNat) .noBank) := by
  rw [ofNat_toNat_low7]
  exact with7_ok _ ((is7_iff d1).mpr h1)

theorem channelPressureOfBytes_ok (h1 : d1.toNat < 0x80) : channelPressureOfBytes g c d1 =
    .ok (.channelPressure g c (BitVec.ofNat 32 (widen d1.toNat 7 32))) := by
  rw [← amtOfByte_eq]
  exact with7_ok _ ((is7_iff d1).mpr h1)

theorem pitchBendOfBytes_ok (h1 : d1.toNat < 0x80) (h2 : d2.toNat < 0x80) : pitchBendOfBytes g c d1 d2 =
    .ok (.pitchBend g c (BitVec.ofNat 32 (widenC (d2.toNat * 2 ^ 7 + d1.toNat) 14 32))) := by
  rw [← pbvOfM1_eq]
  exact with7x2_ok _ ((is7_iff d1).mpr h1) ((is7_iff d2).mpr h2)

end Decode

/-- R301: a two-byte message is no three-byte one. -/
theorem fromBytes_channelPressure_long (g c : U4) (d1 d2 : Byte) :
    fromBytes [byteOf 0xD c, d1, d2] g = .error .malformedWireData := by
  simp [fromBytes, isChannel3_byteOf, isChannel2_byteOf]

/-- R301: a tune request has no data bytes. -/
theorem fromBytes_tuneRequest_long (g : U4) (b : Byte) (rest : List Byte) :
    fromBytes (0xF6 :: b :: rest) g = .error .malformedWireData := rfl

/-- Settles O21: each note message has its own layout, and its two data bytes are checked. -/
theorem noteMessagesInBytes : Obligations.NoteMessagesInBytes := by
  unfold Obligations.NoteMessagesInBytes
  refine fun g c s => ⟨fun n vel a b => ?_, fun grp d1 d2 => ⟨fun ⟨h1, h2⟩ => ?_, fun h => ?_⟩⟩
  · have hdata : [byte7 n, velByte vel] = [dataByte n.toNat, dataByte (narrow vel.toNat 16 7)] := by
      rw [dataByte_u7, velByte_eq]
    exact ⟨m1ToBytes_channel 0x8 c s rfl rfl hdata, m1ToBytes_channel 0x9 c s rfl rfl hdata,
      fun aty ad h => ⟨m1ToBytes_fails s rfl (if_pos h), m1ToBytes_fails s rfl (if_pos h)⟩⟩
  · exact ⟨m1FromBytes_channel 0x8 c s ((fromBytes_noteOff _ c d1 d2).trans (noteOffOfBytes_ok _ c h1 h2)),
      m1FromBytes_channel 0x9 c s ((fromBytes_noteOn _ c d1 d2).trans (noteOnOfBytes_ok _ c h1 h2))⟩
  · rw [← is7_eq_false, ← is7_eq_false] at h
    exact ⟨m1FromBytes_channel 0x8 c s ((fromBytes_noteOff _ c d1 d2).trans (with7x2_bad _ h)),
      m1FromBytes_channel 0x9 c s ((fromBytes_noteOn _ c d1 d2).trans (with7x2_bad _ h))⟩

/-- Settles O22: each of the other channel messages has its own layout, and a message of another length is malformed. -/
theorem channelMessagesInBytes : Obligations.ChannelMessagesInBytes := by
  unfold Obligations.ChannelMessagesInBytes
  refine fun g c s => ⟨fun n x a b => ⟨?_, ?_, ?_, fun m l => ?_, ?_, ?_, ?_⟩,
    fun grp d1 d2 => ⟨fun ⟨h1, h2⟩ => ⟨?_, ?_, ?_⟩, fun h => ?_, fun h1 => ⟨?_, ?_⟩, fun h1 => ?_, ?_, ?_, fun b rest => ?_⟩⟩
  · exact m1ToBytes_channel 0xA c s rfl rfl (by rw [dataByte_u7, amtByte_eq])
  · exact m1ToBytes_channel 0xB c s rfl rfl (by rw [dataByte_u7, ccvByte_eq])
  · exact m1ToBytes_channel 0xC c s rfl rfl (by rw [dataByte_u7])
  · exact m1ToBytes_fails s rfl rfl
  · exact m1ToBytes_channel 0xD c s rfl rfl (by rw [amtByte_eq])
  · exact m1ToBytes_channel 0xE c s rfl rfl (by rw [← pbvM1_eq]; rfl)
  · exact m1ToBytes_answers s rfl rfl
  · exact m1FromBytes_channel 0xA c s ((fromBytes_polyPressure _ c d1 d2).trans (polyPressureOfBytes_ok _ c h1 h2))
  · exact m1FromBytes_channel 0xB c s ((fromBytes_controlChange _ c d1 d2).trans (controlChangeOfBytes_ok _ c h1 h2))
  · exact m1FromBytes_channel 0xE c s ((fromBytes_pitchBend _ c d1 d2).trans (pitchBendOfBytes_ok _ c h1 h2))
  · rw [← is7_eq_false, ← is7_eq_false] at h
    exact ⟨m1FromBytes_channel 0xA c s ((fromBytes_polyPressure _ c d1 d2).trans (with7x2_bad _ h)),
      m1FromBytes_channel 0xB c s ((fromBytes_controlChange _ c d1 d2).trans (with7x2_bad _ h)),
      m1FromBytes_channel 0xE c s ((fromBytes_pitchBend _ c d1 d2).trans (with7x2_bad _ h))⟩
  · exact m1FromBytes_channel 0xC c s ((fromBytes_programChange _ c d1).trans (programChangeOfBytes_ok _ c h1))
  · exact m1FromBytes_channel 0xD c s ((fromBytes_channelPressure _ c d1).trans (channelPressureOfBytes_ok _ c h1))
  · rw [← is7_eq_false] at h1
    exact ⟨m1FromBytes_channel 0xC c s ((fromBytes_programChange _ c d1).trans (with7_bad _ h1)),
      m1FromBytes_channel 0xD c s ((fromBytes_channelPressure _ c d1).trans (with7_bad _ h1))⟩
  · exact m1FromBytes_channel 0xD c s (fromBytes_channelPressure_long _ c d1 d2)
  · exact m1FromBytes_answers s (fromBytes_tuneRequest _)
  · exact m1FromBytes_fails s (fromBytes_tuneRequest_long _ b rest)

/-! ## SysEx in bytes (R313) -/

/-- R300, R313: a framing byte is left out when its flag is 0. -/
theorem framing_eq (flag : Option Bool) (m : List Byte) :
    (if framing flag then m else []) = if flag = some false then [] else m := by
  obtain _ | _ | _ := flag <;> rfl

theorem all_is7_iff (d : List Byte) : d.all is7 = true ↔ ∀ x ∈ d, x.toNat < 0x80 := by
  simp only [List.all_eq_true, is7_iff]

theorem sxFrame_answers {e : Event} (s : State) (hwf : e.wf = true) (he : e.isSysEx = true) :
    Answers (.sxFrame e) s (.ok (.data (frame e))) :=
  atBoundary_typed _ (by rw [hwf, he]; rfl)

/-- Settles O23: the framing bytes stand around what SX_FRAME gives and SX_PARSE reads. -/
theorem sysExInBytes : Obligations.SysExInBytes := by
  unfold Obligations.SysExInBytes
  refine ⟨fun e a b s hwf he => ⟨frame e, sxFrame_answers s hwf he, m1ToBytes_answers s hwf ?_⟩,
    fun grp s => ⟨fun d hd => ?_, fun rest hrest => m1FromBytes_fails s ?_⟩⟩
  · rw [toBytes_of_isSysEx he, sysexBytes, framing_eq, framing_eq, map_dataByte]
    rfl
  · refine answers_same rfl rfl (congrArg (Except.map Result.event) ?_)
    rw [← all_is7_iff] at hd
    exact ((fromBytes_sysex _ _).trans (sysexOfBytes_framed _ d hd)).symm
  · simp only [← all_is7_iff] at hrest
    exact (fromBytes_sysex _ rest).trans (sysexOfBytes_unframed _ hrest)

/-! ## Received messages (R305 to R313) -/

/-- Settles O24: each form decodes its own data bytes. -/
theorem byteWireFormsGiveTheirEvent : Obligations.ByteWireFormsGiveTheirEvent := by
  unfold Obligations.ByteWireFormsGiveTheirEvent
  refine fun grp c d1 d2 s h1 h2 => ⟨answers_of_ok Result.event (noteOffOfBytes_ok _ c h1 h2) rfl,
    answers_of_ok Result.event (noteOnOfBytes_ok _ c h1 h2) rfl,
    answers_of_ok Result.event (polyPressureOfBytes_ok _ c h1 h2) rfl,
    answers_of_ok Result.event (controlChangeOfBytes_ok _ c h1 h2) rfl,
    answers_of_ok Result.event (programChangeOfBytes_ok _ c h1) rfl,
    answers_of_ok Result.event (channelPressureOfBytes_ok _ c h1) rfl,
    answers_of_ok Result.event (pitchBendOfBytes_ok _ c h1 h2) rfl,
    answers_of_ok (x := tuneRequestOfBytes (groupOrDefault grp)) Result.event rfl rfl, fun id d hlo hhi => ?_⟩
  have hwf : (Event.sysex7 (groupOrDefault grp) (.one id) d).wf = true := by
    simp [Event.wf, ManufacturerId.wf, hlo, hhi]
  rw [map_dataByte]
  exact answers_of_ok Result.event (sysexOfBytes_frame hwf rfl) rfl

/-- Settles O25: each form's status byte selects the decoder that the form calls itself. -/
theorem byteWireFormsStandForFromBytes : Obligations.ByteWireFormsStandForFromBytes := by
  unfold Obligations.ByteWireFormsStandForFromBytes
  refine fun grp c d1 d2 rest s => ⟨⟨_, answers_of_answer rfl, m1FromBytes_channel 0x8 c s (fromBytes_noteOff _ c d1 d2)⟩,
    ⟨_, answers_of_answer rfl, m1FromBytes_channel 0x9 c s (fromBytes_noteOn _ c d1 d2)⟩,
    ⟨_, answers_of_answer rfl, m1FromBytes_channel 0xA c s (fromBytes_polyPressure _ c d1 d2)⟩,
    ⟨_, answers_of_answer rfl, m1FromBytes_channel 0xB c s (fromBytes_controlChange _ c d1 d2)⟩,
    ⟨_, answers_of_answer rfl, m1FromBytes_channel 0xC c s (fromBytes_programChange _ c d1)⟩,
    ⟨_, answers_of_answer rfl, m1FromBytes_channel 0xD c s (fromBytes_channelPressure _ c d1)⟩,
    ⟨_, answers_of_answer rfl, m1FromBytes_channel 0xE c s (fromBytes_pitchBend _ c d1 d2)⟩, ?_, ?_, fun d hd => ?_⟩
  · exact answers_same rfl rfl (congrArg (Except.map Result.event) (fromBytes_tuneRequest _).symm)
  · exact answers_same rfl rfl (congrArg (Except.map Result.event) (fromBytes_sysex _ rest).symm)
  · rw [← all_is7_iff] at hd
    exact answers_same rfl rfl (congrArg (Except.map Result.event) (sysexOfBytes_framed _ d hd))

end Sys2Proof.Machine
end

section
/-! PROOFS. 42_ump_words.md: the layout of each UMP message in both directions, SysEx as the words of its packets, the round
trip through words, and the received messages, which have the response of UMP_FROMWORDS of their words. -/

namespace Sys2Proof.Machine

/-! ## The two commands -/

theorem umpToWords_answers {e : Event} {p : Protocol} {ws : List Word} (s : State) (hwf : e.wf = true)
    (h : toWords e p = .ok ws) : Answers (.umpToWords e p) s (.ok (.words ws)) :=
  answers_of_ok Result.words h (atBoundary_typed _ hwf)

theorem umpToWords_fails {e : Event} {p : Protocol} {k : ErrorKind} (s : State) (hwf : e.wf = true)
    (h : toWords e p = .error k) : Answers (.umpToWords e p) s (.error k) :=
  answers_of_error Result.words h (atBoundary_typed _ hwf)

theorem umpFromWords_answers {ws : List Word} {e : Event} (s : State) (h : fromWords ws = .ok e) :
    Answers (.umpFromWords ws) s (.ok (.event e)) :=
  answers_of_ok Result.event h rfl

theorem umpFromWords_fails {ws : List Word} {k : ErrorKind} (s : State) (h : fromWords ws = .error k) :
    Answers (.umpFromWords ws) s (.error k) :=
  answers_of_error Result.event h rfl

/-- A computation whose instruction answers with an error failed with it. -/
theorem error_of_answers {α : Type} {i : Instr} {s : State} {x : Except ErrorKind α} {f : α → Result} {k : ErrorKind}
    (h : Answers i s (.error k)) (hi : exec i s = answer s (x.map f)) : x = .error k := by
  have hr := answers_unique (answers_of_answer hi) h
  cases x with
  | ok a => cases hr
  | error k' => exact congrArg Except.error (Response.error.inj hr)

/-! ## Words in plain arithmetic (R150, R152, R155) -/

theorem bendLsb_toNat (v : Nat) : (bendLsb v).toNat = v % 2 ^ 7 := by
  rw [bendLsb, BitVec.toNat_ofNat, Nat.mod_eq_of_lt (by omega)]

theorem bendMsb_toNat {v : Nat} (h : v < 2 ^ 14) : (bendMsb v).toNat = v / 2 ^ 7 := by
  rw [bendMsb, BitVec.toNat_ofNat, Nat.mod_eq_of_lt (by omega)]

section Words

variable (mt st c : U4) {g : U4} {f1 f2 : Byte} {rest : List Word} (s : State)

/-- UMP_TOWORDS answers with the header its form has, with the two bytes below it given as numbers. -/
theorem umpToWords_head {e : Event} {p : Protocol} {n1 n2 : Nat} (hwf : e.wf = true)
    (h : toWords e p = .ok (word4 (headByte mt g) (byteOf st c) f1 f2 :: rest)) (h1 : f1.toNat = n1) (h2 : f2.toNat = n2) :
    Answers (.umpToWords e p) s (.ok (.words (headWord mt.toNat g st.toNat c n1 n2 :: rest))) := by
  rw [← h1, ← h2, headWord_eq]
  exact umpToWords_answers s hwf h

/-- UMP_FROMWORDS of a word with a header has the response its form decodes to. -/
theorem umpFromWords_head {x : Except ErrorKind Event}
    (h : fromWords (word4 (headByte mt g) (byteOf st c) f1 f2 :: rest) = x) :
    Answers (.umpFromWords (headWord mt.toNat g st.toNat c f1.toNat f2.toNat :: rest)) s (responseOf (x.map .event)) := by
  rw [headWord_eq, ← h]
  exact answers_of_answer rfl

end Words

/-! ## SX_UNCHUNK of SX_CHUNK (R505, R506, R516) -/

section ChunkLoop

variable (d : List U7) (g : U4)

theorem packetStatus?_stride (pos : Nat) : packetStatus? (stride d g pos) = some (strideStatus d.length pos) := by
  rw [stride_eq, packetStatus?_packetOf]

theorem packetBytes_stride (pos : Nat) : packetBytes (stride d g pos) = strideBytes d pos := by
  rw [stride_eq, packetBytes_packetOf _ _ _ (strideBytes_length_le d pos)]

theorem chunkLoop_of_lt (fuel : Nat) {pos : Nat} (h : pos < d.length) :
    chunkLoop d g (fuel + 1) pos = stride d g pos :: chunkLoop d g fuel (pos + min 6 (d.length - pos)) :=
  if_pos h

/-- The packets from position `pos` on carry the bytes from `pos` on. -/
theorem flatMap_packetBytes_chunkLoop : ∀ fuel pos, d.length ≤ pos + fuel →
    (chunkLoop d g fuel pos).flatMap packetBytes = d.drop pos
  | 0, pos, hfuel => (List.drop_eq_nil_of_le hfuel).symm
  | fuel + 1, pos, hfuel => by
    rcases Nat.lt_or_ge pos d.length with hlt | hge
    · rw [chunkLoop_of_lt d g fuel hlt, List.flatMap_cons, packetBytes_stride, strideBytes,
        flatMap_packetBytes_chunkLoop fuel _ (by omega), ← List.drop_drop, List.take_append_drop]
    · rw [chunkLoop_of_le d g hge, List.drop_eq_nil_of_le hge]
      rfl

theorem contsThenEnd_cons (p : Packet) {ps : List Packet} (h : contsThenEnd ps = true) :
    contsThenEnd (p :: ps) = (packetStatus? p == some .cont) := by
  cases ps with
  | nil => cases h
  | cons q ps => rw [contsThenEnd, h, Bool.and_true]

theorem statusesOk_cons (p : Packet) {ps : List Packet} (h : contsThenEnd ps = true) :
    statusesOk (p :: ps) = (packetStatus? p == some .start) := by
  cases ps with
  | nil => cases h
  | cons q ps => rw [statusesOk, h, Bool.and_true]

/-- After the first packet come continues and one end. -/
theorem contsThenEnd_chunkLoop : ∀ fuel pos, 0 < pos → pos < d.length → d.length ≤ pos + fuel →
    contsThenEnd (chunkLoop d g fuel pos) = true
  | 0, pos, _, hlt, hfuel => absurd hfuel (by omega)
  | fuel + 1, pos, hpos, hlt, hfuel => by
    rw [chunkLoop_of_lt d g fuel hlt]
    rcases Nat.lt_or_ge 6 (d.length - pos) with hmore | hlast
    · rw [contsThenEnd_cons _ (contsThenEnd_chunkLoop fuel _ (by omega) (by omega) (by omega)), packetStatus?_stride,
        strideStatus, if_neg (by omega), if_neg (Nat.not_le.mpr hmore)]
      rfl
    · rw [chunkLoop_of_le d g (by omega), contsThenEnd, packetStatus?_stride, strideStatus, if_neg (by omega), if_pos hlast]
      rfl

/-- R505: the packets of SX_CHUNK have the statuses of one whole message. -/
theorem statusesOk_chunk : statusesOk (chunk d g) = true := by
  rw [chunk]
  cases hlen : d.length with
  | zero => rfl
  | succ n =>
    rw [chunkLoop_of_lt d g n (by omega)]
    rcases Nat.lt_or_ge 6 d.length with hmore | hone
    · rw [statusesOk_cons _ (contsThenEnd_chunkLoop d g n _ (by omega) (by omega) (by omega)), packetStatus?_stride,
        strideStatus, if_pos rfl, if_neg (Nat.not_le.mpr hmore)]
      rfl
    · rw [chunkLoop_of_le d g (by omega), statusesOk, packetStatus?_stride, strideStatus, if_pos rfl, if_pos hone]
      rfl

/-- SX_UNCHUNK undoes SX_CHUNK. -/
theorem unchunk_chunk : unchunk (chunk d g) = .ok d := by
  refine (unchunk_ok_iff _ d).mpr ⟨?_, fun p hp q hq => ?_, statusesOk_chunk d g, ?_⟩
  · exact List.all_eq_true.mpr fun p hp => (chunk_valid hp).1
  · rw [(chunk_valid hp).2, (chunk_valid hq).2]
  · rw [chunk, flatMap_packetBytes_chunkLoop d g _ 0 (by omega), List.drop_zero]

theorem chunk_ne_nil (h : d ≠ []) : chunk d g ≠ [] := by
  intro hnil
  have hd := unchunk_chunk d g
  rw [hnil] at hd
  exact h (Except.ok.inj hd).symm

end ChunkLoop

/-! ## SysEx in words (R430) -/

/-- Packets of message type 0x3 and one group are unchunked and parsed. -/
theorem sysexOfPackets_of_uniform {ps : List Packet} {g : U4} (h : ∀ q ∈ ps, msgType q.w1 = 0x3#4 ∧ groupOf q.w1 = g) :
    sysexOfPackets ps g = (unchunk ps).bind fun d => parse (d.map byte7) g :=
  if_pos (List.all_eq_true.mpr fun q hq => by simp [h q hq])

/-- A packet of another message type or group makes the message malformed. -/
theorem sysexOfPackets_mixed {ps : List Packet} {g : U4} (h : ¬ ∀ q ∈ ps, msgType q.w1 = 0x3#4 ∧ groupOf q.w1 = g) :
    sysexOfPackets ps g = .error .malformedWireData :=
  if_neg fun hall => h (by simpa using hall)

/-- A SysEx Event comes back from the words of its packets. -/
theorem fromWords_sysexWords {e : Event} (hwf : e.wf = true) (he : e.isSysEx = true) :
    fromWords (flattenPackets (chunk (frame e) e.group)) = .ok e := by
  obtain ⟨p, ps, hps⟩ := List.exists_cons_of_ne_nil (chunk_ne_nil _ e.group (frame_ne_nil he))
  have huniform : ∀ q ∈ p :: ps, msgType q.w1 = 0x3#4 ∧ groupOf q.w1 = e.group := by
    intro q hq
    obtain ⟨hvalid, hgroup⟩ := chunk_valid (hps ▸ hq)
    exact ⟨(mt_eq_three q).mp ((valid_iff q).mpr hvalid).1, hgroup⟩
  obtain ⟨htype, hgroup⟩ := huniform p List.mem_cons_self
  rw [hps, fromWords_flattenPackets htype, hgroup, sysexOfPackets_of_uniform huniform, ← hps, unchunk_chunk]
  exact parse_frame hwf he

theorem toWords_of_isSysEx {e : Event} (he : e.isSysEx = true) (p : Protocol) : toWords e p = sysexWords e := by
  cases e with
  | sysex7 | universalSysex7 => rfl
  | _ => cases he

/-- R430: MT 0x3 words of an odd number are malformed. -/
theorem fromWords_flattenPackets_odd {p : Packet} {ps : List Packet} (h : msgType p.w1 = 0x3#4) (w : Word) :
    fromWords (flattenPackets (p :: ps) ++ [w]) = .error .malformedWireData := by
  have hlen : (p.w1 :: p.w2 :: (flattenPackets ps ++ [w])).length % 2 ≠ 0 := by
    simp only [List.length_cons, List.length_append, flattenPackets_length, List.length_nil]
    omega
  change fromWords (p.w1 :: p.w2 :: (flattenPackets ps ++ [w])) = _
  simp only [fromWords, h]
  exact if_neg hlen

/-- Settles O32: an MT 0x3 message is its packets, which UMP_FROMWORDS hands to SX_UNCHUNK and SX_PARSE. -/
theorem sysExInWords : Obligations.SysExInWords := by
  unfold Obligations.SysExInWords
  refine ⟨fun e p s hwf he => ?_, fun p rest s hmt => ?_⟩
  · exact ⟨frame e, chunk (frame e) e.group, sxFrame_answers s hwf he, rfl,
      umpToWords_answers s hwf (toWords_of_isSysEx he p)⟩
  have htype := (mt_eq_three p).mp hmt
  have hpackets := fromWords_flattenPackets (ps := rest) htype
  have huniform : (∀ q ∈ rest, q.mt = 0x3 ∧ q.grp = p.grp) ↔
      ∀ q ∈ p :: rest, msgType q.w1 = 0x3#4 ∧ groupOf q.w1 = groupOf p.w1 := by
    simp only [mt_eq_three, grp_eq, BitVec.toNat_inj, List.forall_mem_cons, htype, and_self, true_and]
  refine ⟨fun h => ?_, fun h => ?_, fun w => umpFromWords_fails s (fromWords_flattenPackets_odd htype w)⟩
  · rw [sysexOfPackets_of_uniform (huniform.mp h)] at hpackets
    refine ⟨fun d hd => ?_, fun hbad => ?_⟩
    · have hu : unchunk (p :: rest) = .ok d := ok_of_answers (fun _ _ => Result.data.inj) hd rfl
      rw [hu] at hpackets
      rw [map_dataByte, ofNat_grp]
      exact answers_same rfl rfl (congrArg (Except.map Result.event) hpackets.symm)
    · have hu : unchunk (p :: rest) = .error .malformedWireData := error_of_answers hbad rfl
      rw [hu] at hpackets
      exact umpFromWords_fails s hpackets
  · rw [sysexOfPackets_mixed (mt huniform.mpr h)] at hpackets
    exact umpFromWords_fails s hpackets

/-! ## Bytes that are not read (R172) -/

/-- R405: the two low bytes of the word are not read. -/
theorem fromWords_tuneRequest (g : U4) (b1 b2 : Byte) :
    fromWords [word4 (headByte 0x1 g) 0xF6#8 b1 b2] = .ok (.tuneRequest g) := by
  rw [word4_eq_word16]
  exact fromWords_mt1TuneRequest g _

/-- R425: the two low bytes of the first word are not read. -/
theorem fromWords_channelPressure (g c : U4) (f1 f2 : Byte) (x : U32) :
    fromWords [word4 (headByte 0x4 g) (byteOf 0xD c) f1 f2, x] = .ok (.channelPressure g c x) := by
  rw [word4_eq_word16]
  exact fromWords_mt4ChannelPressure g c _ x

/-- R426: the two low bytes of the first word are not read. -/
theorem fromWords_pitchBend (g c : U4) (f1 f2 : Byte) (x : U32) :
    fromWords [word4 (headByte 0x4 g) (byteOf 0xE c) f1 f2, x] = .ok (.pitchBend g c x) := by
  rw [word4_eq_word16]
  exact fromWords_mt4PitchBend g c _ x

/-! ## The MIDI 1.0 words (R405, R410 to R416) -/

/-- Settles O30: each form has its own status nibble and layout, and its data bytes are those of the MIDI 1.0 message. -/
theorem protocolOneWords : Obligations.ProtocolOneWords := by
  unfold Obligations.ProtocolOneWords
  refine fun g c s => ⟨fun n vel x p => ⟨?_, ?_, ?_, fun aty ad h => ⟨?_, ?_⟩, ?_, ?_, ?_, fun m l => ?_, ?_, ?_⟩,
    fun b1 b2 => ⟨?_, fun ⟨h1, h2⟩ => ⟨?_, ?_, ?_, ?_, ?_⟩, fun h => ?_, fun h1 => ⟨?_, ?_⟩, fun h1 => ?_⟩⟩
  · exact umpToWords_head 0x1 0xF 6 s rfl rfl rfl rfl
  · exact umpToWords_head 0x2 0x8 c s rfl rfl (byte7_toNat n) (velByte_toNat vel)
  · exact umpToWords_head 0x2 0x9 c s rfl rfl (byte7_toNat n) (velByte_toNat vel)
  · exact umpToWords_fails s rfl (if_pos h)
  · exact umpToWords_fails s rfl (if_pos h)
  · exact umpToWords_head 0x2 0xA c s rfl rfl (byte7_toNat n) (amtByte_toNat x)
  · exact umpToWords_head 0x2 0xB c s rfl rfl (byte7_toNat n) (ccvByte_toNat x)
  · exact umpToWords_head 0x2 0xC c s rfl rfl (byte7_toNat n) rfl
  · exact umpToWords_fails s rfl rfl
  · exact umpToWords_head 0x2 0xD c s rfl rfl (amtByte_toNat x) rfl
  · rw [← pbvM1_eq]
    exact umpToWords_head 0x2 0xE c s rfl rfl (bendLsb_toNat _) (bendMsb_toNat (pbvM1_lt x))
  · exact umpFromWords_head 0x1 0xF 6 s (fromWords_tuneRequest g b1 b2)
  · exact umpFromWords_head 0x2 0x8 c s ((fromWords_mt2NoteOff g c b1 b2).trans (noteOffOfBytes_ok g c h1 h2))
  · exact umpFromWords_head 0x2 0x9 c s ((fromWords_mt2NoteOn g c b1 b2).trans (noteOnOfBytes_ok g c h1 h2))
  · exact umpFromWords_head 0x2 0xA c s ((fromWords_mt2PolyPressure g c b1 b2).trans (polyPressureOfBytes_ok g c h1 h2))
  · exact umpFromWords_head 0x2 0xB c s ((fromWords_mt2ControlChange g c b1 b2).trans (controlChangeOfBytes_ok g c h1 h2))
  · exact umpFromWords_head 0x2 0xE c s ((fromWords_mt2PitchBend g c b1 b2).trans (pitchBendOfBytes_ok g c h1 h2))
  · rw [← is7_eq_false, ← is7_eq_false] at h
    simp only [List.forall_mem_cons]
    exact ⟨umpFromWords_head 0x2 0x8 c s ((fromWords_mt2NoteOff g c b1 b2).trans (with7x2_bad _ h)),
      umpFromWords_head 0x2 0x9 c s ((fromWords_mt2NoteOn g c b1 b2).trans (with7x2_bad _ h)),
      umpFromWords_head 0x2 0xA c s ((fromWords_mt2PolyPressure g c b1 b2).trans (with7x2_bad _ h)),
      umpFromWords_head 0x2 0xB c s ((fromWords_mt2ControlChange g c b1 b2).trans (with7x2_bad _ h)),
      umpFromWords_head 0x2 0xE c s ((fromWords_mt2PitchBend g c b1 b2).trans (with7x2_bad _ h)), nofun⟩
  · exact umpFromWords_head 0x2 0xC c s ((fromWords_mt2ProgramChange g c b1 b2).trans (programChangeOfBytes_ok g c h1))
  · exact umpFromWords_head 0x2 0xD c s ((fromWords_mt2ChannelPressure g c b1 b2).trans (channelPressureOfBytes_ok g c h1))
  · rw [← is7_eq_false] at h1
    simp only [List.forall_mem_cons]
    exact ⟨umpFromWords_head 0x2 0xC c s ((fromWords_mt2ProgramChange g c b1 b2).trans (with7_bad _ h1)),
      umpFromWords_head 0x2 0xD c s ((fromWords_mt2ChannelPressure g c b1 b2).trans (with7_bad _ h1)), nofun⟩

/-! ## The MIDI 2.0 packets (R420 to R428) -/

/-- R424: with the option bit set the bank bytes are checked and read. -/
theorem mt4ProgramChange_bank (g c : U4) (r p q m l : Byte) {o : Byte} (h : o.toNat % 2 = 1) :
    mt4ProgramChange g c r o p q m l = if is7 p && is7 m && is7 l then
      .ok (.programChange g c (low7 p) (.bank (low7 m) (low7 l))) else .error .malformedWireData := by
  have hbit : o.getLsbD 0 = true := by simp [BitVec.getLsbD, h]
  rw [mt4ProgramChange, hbit]
  rfl

section Decode

variable (g c : U4) {n o p m l : Byte} (r q i aty : Byte) (vel ad : U16) (x : U32)

/-- A form with a field below 0x80 decodes to the Event with the number the field holds. -/
theorem with7_of_lt (f : U7 → Event) (h : n.toNat < 0x80) : with7 n (f (low7 n)) = .ok (f (BitVec.ofNat 7 n.toNat)) := by
  rw [with7_ok _ ((is7_iff n).mpr h), ofNat_toNat_low7]

theorem mt4NoteOff_ok (h : n.toNat < 0x80) :
    mt4NoteOff g c n aty vel ad = .ok (.noteOff g c (BitVec.ofNat 7 n.toNat) vel aty ad) :=
  with7_of_lt (.noteOff g c · vel aty ad) h

theorem mt4NoteOn_ok (h : n.toNat < 0x80) :
    mt4NoteOn g c n aty vel ad = .ok (.noteOn g c (BitVec.ofNat 7 n.toNat) vel aty ad) :=
  with7_of_lt (.noteOn g c · vel aty ad) h

theorem mt4PolyPressure_ok (h : n.toNat < 0x80) :
    mt4PolyPressure g c n r x = .ok (.polyPressure g c (BitVec.ofNat 7 n.toNat) x) :=
  with7_of_lt (.polyPressure g c · x) h

theorem mt4ControlChange_ok (h : n.toNat < 0x80) :
    mt4ControlChange g c n r x = .ok (.controlChange g c (BitVec.ofNat 7 n.toNat) x) :=
  with7_of_lt (.controlChange g c · x) h

theorem mt4PncRegistered_ok (h : n.toNat < 0x80) :
    mt4PncRegistered g c n i x = .ok (.pncRegistered g c (BitVec.ofNat 7 n.toNat) i x) :=
  with7_of_lt (.pncRegistered g c · i x) h

theorem mt4PncAssignable_ok (h : n.toNat < 0x80) :
    mt4PncAssignable g c n i x = .ok (.pncAssignable g c (BitVec.ofNat 7 n.toNat) i x) :=
  with7_of_lt (.pncAssignable g c · i x) h

theorem mt4ProgramChange_ok_noBank (ho : o.toNat % 2 = 0) (hp : p.toNat < 0x80) :
    mt4ProgramChange g c r o p q m l = .ok (.programChange g c (BitVec.ofNat 7 p.toNat) .noBank) :=
  (mt4ProgramChange_noBank g c r p q m l ho).trans (with7_of_lt (.programChange g c · .noBank) hp)

theorem mt4ProgramChange_ok_bank (ho : o.toNat % 2 = 1) (hp : p.toNat < 0x80) (hm : m.toNat < 0x80) (hl : l.toNat < 0x80) :
    mt4ProgramChange g c r o p q m l = .ok (.programChange g c (BitVec.ofNat 7 p.toNat)
      (.bank (BitVec.ofNat 7 m.toNat) (BitVec.ofNat 7 l.toNat))) := by
  rw [mt4ProgramChange_bank g c r p q m l ho, (is7_iff p).mpr hp, (is7_iff m).mpr hm, (is7_iff l).mpr hl,
    ofNat_toNat_low7, ofNat_toNat_low7, ofNat_toNat_low7]
  rfl

theorem mt4ProgramChange_bad
    (h : 0x80 ≤ p.toNat ∨ (o.toNat % 2 = 1 ∧ (0x80 ≤ m.toNat ∨ 0x80 ≤ l.toNat))) :
    mt4ProgramChange g c r o p q m l = .error .malformedWireData := by
  simp only [← is7_eq_false] at h
  rcases Nat.mod_two_eq_zero_or_one o.toNat with ho | ho
  · rw [mt4ProgramChange_noBank g c r p q m l ho, with7_bad _ (h.resolve_right (by omega))]
  · rw [mt4ProgramChange_bank g c r p q m l ho]
    rcases h with h | ⟨-, h | h⟩ <;> simp [h]

end Decode

/-- The second word of a program change. -/
theorem bytesWord_byte7 (n m l : U7) :
    bytesWord n.toNat 0 m.toNat l.toNat = word4 (byte7 n) 0 (byte7 m) (byte7 l) := by
  simpa using bytesWord_eq (byte7 n) 0 (byte7 m) (byte7 l)

/-- Settles O31: each form has its own status nibble and layout, and checks the 7-bit fields it reads. -/
theorem protocolTwoWords : Obligations.ProtocolTwoWords := by
  unfold Obligations.ProtocolTwoWords
  simp only [pairWord_eq, bytesWord_eq]
  refine fun g c s => ⟨fun n vel ad aty i x m l => ⟨?_, ?_, ?_, ?_, ?_, ?_, ?_, ?_, ?_, ?_, ?_, ?_⟩,
    fun f1 f2 vel ad x h => ⟨?_, ?_, ?_, ?_, ?_, ?_⟩, fun f1 f2 x h => ?_, fun f1 f2 x => ⟨?_, ?_⟩,
    fun f1 f2 p r m l => ⟨fun ho hp => ?_, fun ho hp hm hl => ?_, fun h => ?_⟩⟩
  · exact umpToWords_head 0x4 0x8 c s rfl rfl (byte7_toNat n) rfl
  · exact umpToWords_head 0x4 0x9 c s rfl rfl (byte7_toNat n) rfl
  · exact umpToWords_head 0x4 0xA c s rfl rfl (byte7_toNat n) rfl
  · exact umpToWords_head 0x4 0xB c s rfl rfl (byte7_toNat n) rfl
  · rw [bytesWord_byte7]
    exact umpToWords_head 0x4 0xC c s rfl rfl rfl rfl
  · have hword : bytesWord n.toNat 0 0 0 = word4 (byte7 n) 0 0 0 := bytesWord_byte7 n 0 0
    rw [hword]
    exact umpToWords_head 0x4 0xC c s rfl rfl rfl rfl
  · exact umpToWords_head 0x4 0xD c s rfl rfl rfl rfl
  · exact umpToWords_head 0x4 0xE c s rfl rfl rfl rfl
  · exact umpToWords_head 0x4 0x0 c s rfl rfl (byte7_toNat n) rfl
  · exact umpToWords_head 0x4 0x1 c s rfl rfl (byte7_toNat n) rfl
  · exact umpToWords_fails s rfl rfl
  · exact umpToWords_fails s rfl rfl
  · exact umpFromWords_head 0x4 0x8 c s ((fromWords_mt4NoteOff g c f1 f2 vel ad).trans (mt4NoteOff_ok g c f2 vel ad h))
  · exact umpFromWords_head 0x4 0x9 c s ((fromWords_mt4NoteOn g c f1 f2 vel ad).trans (mt4NoteOn_ok g c f2 vel ad h))
  · exact umpFromWords_head 0x4 0xA c s ((fromWords_mt4PolyPressure g c f1 f2 x).trans (mt4PolyPressure_ok g c f2 x h))
  · exact umpFromWords_head 0x4 0xB c s ((fromWords_mt4ControlChange g c f1 f2 x).trans (mt4ControlChange_ok g c f2 x h))
  · exact umpFromWords_head 0x4 0x0 c s ((fromWords_mt4PncRegistered g c f1 f2 x).trans (mt4PncRegistered_ok g c f2 x h))
  · exact umpFromWords_head 0x4 0x1 c s ((fromWords_mt4PncAssignable g c f1 f2 x).trans (mt4PncAssignable_ok g c f2 x h))
  · rw [← is7_eq_false] at h
    obtain ⟨vel, ad, rfl⟩ : ∃ vel ad, word16 vel ad = x := ⟨_, _, word16_halves x⟩
    simp only [List.forall_mem_cons]
    exact ⟨umpFromWords_head 0x4 0x0 c s ((fromWords_mt4PncRegistered g c f1 f2 _).trans (with7_bad _ h)),
      umpFromWords_head 0x4 0x1 c s ((fromWords_mt4PncAssignable g c f1 f2 _).trans (with7_bad _ h)),
      umpFromWords_head 0x4 0x8 c s ((fromWords_mt4NoteOff g c f1 f2 vel ad).trans (with7_bad _ h)),
      umpFromWords_head 0x4 0x9 c s ((fromWords_mt4NoteOn g c f1 f2 vel ad).trans (with7_bad _ h)),
      umpFromWords_head 0x4 0xA c s ((fromWords_mt4PolyPressure g c f1 f2 _).trans (with7_bad _ h)),
      umpFromWords_head 0x4 0xB c s ((fromWords_mt4ControlChange g c f1 f2 _).trans (with7_bad _ h)), nofun⟩
  · exact umpFromWords_head 0x4 0xD c s (fromWords_channelPressure g c f1 f2 x)
  · exact umpFromWords_head 0x4 0xE c s (fromWords_pitchBend g c f1 f2 x)
  · exact umpFromWords_head 0x4 0xC c s
      ((fromWords_mt4ProgramChange g c f1 f2 p r m l).trans (mt4ProgramChange_ok_noBank g c f1 r ho hp))
  · exact umpFromWords_head 0x4 0xC c s
      ((fromWords_mt4ProgramChange g c f1 f2 p r m l).trans (mt4ProgramChange_ok_bank g c f1 r ho hp hm hl))
  · exact umpFromWords_head 0x4 0xC c s
      ((fromWords_mt4ProgramChange g c f1 f2 p r m l).trans (mt4ProgramChange_bad g c f1 r h))

/-! ## The round trip through words (R435) -/

/-- A form whose 7-bit field the encoder wrote decodes to its Event. -/
theorem with7_byte7 (v : U7) (f : U7 → Event) : with7 (byte7 v) (f (low7 (byte7 v))) = .ok (f v) := by
  rw [with7_ok _ (is7_byte7 v), low7_byte7]

/-- Under P2 every Event is written at full resolution and comes back. -/
theorem fromWords_toWords_p2 {e : Event} (hwf : e.wf = true) : ∃ ws, toWords e .p2 = .ok ws ∧ fromWords ws = .ok e := by
  cases e with
  | noteOff g c n v aty ad =>
    exact ⟨_, rfl, (fromWords_mt4NoteOff g c _ aty v ad).trans (with7_byte7 n (.noteOff g c · v aty ad))⟩
  | noteOn g c n v aty ad =>
    exact ⟨_, rfl, (fromWords_mt4NoteOn g c _ aty v ad).trans (with7_byte7 n (.noteOn g c · v aty ad))⟩
  | polyPressure g c n x =>
    exact ⟨_, rfl, (fromWords_mt4PolyPressure g c _ _ x).trans (with7_byte7 n (.polyPressure g c · x))⟩
  | controlChange g c n x =>
    exact ⟨_, rfl, (fromWords_mt4ControlChange g c _ _ x).trans (with7_byte7 n (.controlChange g c · x))⟩
  | programChange g c n bank =>
    cases bank with
    | noBank =>
      refine ⟨_, rfl, (fromWords_mt4ProgramChange g c _ _ _ _ _ _).trans ?_⟩
      rw [mt4ProgramChange_noBank g c _ _ _ _ _ rfl, with7_byte7 n (.programChange g c · .noBank)]
    | bank m l =>
      refine ⟨_, rfl, (fromWords_mt4ProgramChange g c _ _ _ _ _ _).trans ?_⟩
      rw [mt4ProgramChange_bank g c _ _ _ _ _ rfl]
      simp
  | channelPressure g c x => exact ⟨_, rfl, fromWords_channelPressure g c _ _ x⟩
  | pitchBend g c x => exact ⟨_, rfl, fromWords_pitchBend g c _ _ x⟩
  | pncRegistered g c n i x =>
    exact ⟨_, rfl, (fromWords_mt4PncRegistered g c _ i x).trans (with7_byte7 n (.pncRegistered g c · i x))⟩
  | pncAssignable g c n i x =>
    exact ⟨_, rfl, (fromWords_mt4PncAssignable g c _ i x).trans (with7_byte7 n (.pncAssignable g c · i x))⟩
  | tuneRequest g => exact ⟨_, rfl, fromWords_tuneRequest g _ _⟩
  | sysex7 | universalSysex7 => exact ⟨_, rfl, fromWords_sysexWords hwf rfl⟩

/-- Under P1 a channel message is one word that holds its MIDI 1.0 bytes, and the word decodes as the bytes do; so every form
decodes with its validated values at MIDI 1.0 resolution. -/
theorem fromWords_toWords_p1 {e : Event} (hwf : e.wf = true) (h : ¬ only2 e) :
    ∃ ws, toWords e .p1 = .ok ws ∧ fromWords ws = .ok (proj1 e) := by
  obtain ⟨m, hm, hd⟩ := fromBytes_toBytes hwf h
  simp only [only2, not_or] at h
  obtain ⟨hreg, hasg, h2⟩ := h
  cases e with
  | noteOff g c n v aty ad =>
    obtain ⟨rfl, rfl⟩ := attribute_eq_zero h2
    cases hm
    exact ⟨_, rfl, (fromWords_mt2NoteOff g c _ _).trans ((fromBytes_noteOff g c _ _).symm.trans hd)⟩
  | noteOn g c n v aty ad =>
    obtain ⟨rfl, rfl⟩ := attribute_eq_zero h2
    cases hm
    exact ⟨_, rfl, (fromWords_mt2NoteOn g c _ _).trans ((fromBytes_noteOn g c _ _).symm.trans hd)⟩
  | polyPressure g c n x =>
    cases hm
    exact ⟨_, rfl, (fromWords_mt2PolyPressure g c _ _).trans ((fromBytes_polyPressure g c _ _).symm.trans hd)⟩
  | controlChange g c n x =>
    cases hm
    exact ⟨_, rfl, (fromWords_mt2ControlChange g c _ _).trans ((fromBytes_controlChange g c _ _).symm.trans hd)⟩
  | programChange g c p bank =>
    obtain rfl : bank = .noBank := by simpa [has2Only] using h2
    cases hm
    exact ⟨_, rfl, (fromWords_mt2ProgramChange g c _ _).trans ((fromBytes_programChange g c _).symm.trans hd)⟩
  | channelPressure g c x =>
    cases hm
    exact ⟨_, rfl, (fromWords_mt2ChannelPressure g c _ _).trans ((fromBytes_channelPressure g c _).symm.trans hd)⟩
  | pitchBend g c x =>
    cases hm
    exact ⟨_, rfl, (fromWords_mt2PitchBend g c _ _).trans ((fromBytes_pitchBend g c _ _).symm.trans hd)⟩
  | pncRegistered => exact absurd rfl hreg
  | pncAssignable => exact absurd rfl hasg
  | tuneRequest g => exact ⟨_, rfl, fromWords_tuneRequest g _ _⟩
  | sysex7 | universalSysex7 => exact ⟨_, rfl, fromWords_sysexWords hwf rfl⟩

/-- Settles O37: every form decodes to its Event under P2, and under P1 to the projection, which is the Event on the grid. -/
theorem wordRoundTrip : Obligations.WordRoundTrip := by
  unfold Obligations.WordRoundTrip
  intro e s hwf
  refine ⟨?_, fun h => ?_⟩
  · obtain ⟨ws, hws, hd⟩ := fromWords_toWords_p2 hwf
    exact ⟨ws, umpToWords_answers s hwf hws, umpFromWords_answers s hd⟩
  · obtain ⟨ws, hws, hd⟩ := fromWords_toWords_p1 hwf h
    refine ⟨ws, umpToWords_answers s hwf hws, umpFromWords_answers s hd, fun hgrid => umpFromWords_answers s ?_⟩
    rw [hd, proj1_of_onGrid hgrid]

/-! ## Received messages (R405, R410 to R416, R420 to R428) -/

/-- Settles O33: each form's header selects the decoder that the form calls itself. -/
theorem oneWordFormsGiveTheirEvent : Obligations.OneWordFormsGiveTheirEvent := by
  unfold Obligations.OneWordFormsGiveTheirEvent
  refine fun g c b1 b2 s => ⟨fun h1 h2 => ⟨answers_of_ok Result.event (noteOffOfBytes_ok g c h1 h2) rfl,
      answers_of_ok Result.event (noteOnOfBytes_ok g c h1 h2) rfl,
      answers_of_ok Result.event (polyPressureOfBytes_ok g c h1 h2) rfl,
      answers_of_ok Result.event (controlChangeOfBytes_ok g c h1 h2) rfl,
      answers_of_ok Result.event (pitchBendOfBytes_ok g c h1 h2) rfl⟩,
    fun h1 => ⟨answers_of_ok Result.event (programChangeOfBytes_ok g c h1) rfl,
      answers_of_ok Result.event (channelPressureOfBytes_ok g c h1) rfl⟩,
    rfl, ⟨_, rfl, umpFromWords_head 0x1 0xF 6 s (fromWords_tuneRequest g b1 b2)⟩,
    ⟨_, answers_of_answer rfl, umpFromWords_head 0x2 0x8 c s (fromWords_mt2NoteOff g c b1 b2)⟩,
    ⟨_, answers_of_answer rfl, umpFromWords_head 0x2 0x9 c s (fromWords_mt2NoteOn g c b1 b2)⟩,
    ⟨_, answers_of_answer rfl, umpFromWords_head 0x2 0xA c s (fromWords_mt2PolyPressure g c b1 b2)⟩,
    ⟨_, answers_of_answer rfl, umpFromWords_head 0x2 0xB c s (fromWords_mt2ControlChange g c b1 b2)⟩,
    ⟨_, answers_of_answer rfl, umpFromWords_head 0x2 0xC c s (fromWords_mt2ProgramChange g c b1 b2)⟩,
    ⟨_, answers_of_answer rfl, umpFromWords_head 0x2 0xD c s (fromWords_mt2ChannelPressure g c b1 b2)⟩,
    ⟨_, answers_of_answer rfl, umpFromWords_head 0x2 0xE c s (fromWords_mt2PitchBend g c b1 b2)⟩⟩

/-- A reserved sixteen-bit field is two bytes. -/
theorem exists_bytes_of_u16 (r : U16) : ∃ f1 f2 : Byte, f1.toNat = r.toNat / 256 ∧ f2.toNat = r.toNat % 256 := by
  have hr := r.isLt
  exact ⟨BitVec.ofNat 8 (r.toNat / 256), BitVec.ofNat 8 (r.toNat % 256), Nat.mod_eq_of_lt (by omega),
    Nat.mod_eq_of_lt (by omega)⟩

/-- Settles O34: each form's header selects the decoder that the form calls itself. -/
theorem twoWordFormsGiveTheirEvent : Obligations.TwoWordFormsGiveTheirEvent := by
  unfold Obligations.TwoWordFormsGiveTheirEvent
  intro g c f1 f2 p r m l vel ad rsv x s
  obtain ⟨r1, r2, h1, h2⟩ := exists_bytes_of_u16 rsv
  rw [pairWord_eq, bytesWord_eq, ← h1, ← h2]
  refine ⟨fun h => ⟨answers_of_ok Result.event (mt4NoteOff_ok g c f2 vel ad h) rfl,
      answers_of_ok Result.event (mt4NoteOn_ok g c f2 vel ad h) rfl,
      answers_of_ok Result.event (mt4PolyPressure_ok g c f2 x h) rfl,
      answers_of_ok Result.event (mt4ControlChange_ok g c f2 x h) rfl,
      answers_of_ok Result.event (mt4PncRegistered_ok g c f2 x h) rfl,
      answers_of_ok Result.event (mt4PncAssignable_ok g c f2 x h) rfl⟩,
    fun ho hp => answers_of_ok Result.event (mt4ProgramChange_ok_noBank g c f1 r ho hp) rfl,
    fun ho hp hm hl => answers_of_ok Result.event (mt4ProgramChange_ok_bank g c f1 r ho hp hm hl) rfl, rfl, rfl,
    ⟨_, answers_of_answer rfl, umpFromWords_head 0x4 0x8 c s (fromWords_mt4NoteOff g c f1 f2 vel ad)⟩,
    ⟨_, answers_of_answer rfl, umpFromWords_head 0x4 0x9 c s (fromWords_mt4NoteOn g c f1 f2 vel ad)⟩,
    ⟨_, answers_of_answer rfl, umpFromWords_head 0x4 0xA c s (fromWords_mt4PolyPressure g c f1 f2 x)⟩,
    ⟨_, answers_of_answer rfl, umpFromWords_head 0x4 0xB c s (fromWords_mt4ControlChange g c f1 f2 x)⟩,
    ⟨_, answers_of_answer rfl, umpFromWords_head 0x4 0xC c s (fromWords_mt4ProgramChange g c f1 f2 p r m l)⟩,
    ⟨_, rfl, umpFromWords_head 0x4 0xD c s (fromWords_channelPressure g c r1 r2 x)⟩,
    ⟨_, rfl, umpFromWords_head 0x4 0xE c s (fromWords_pitchBend g c r1 r2 x)⟩,
    ⟨_, answers_of_answer rfl, umpFromWords_head 0x4 0x0 c s (fromWords_mt4PncRegistered g c f1 f2 x)⟩,
    ⟨_, answers_of_answer rfl, umpFromWords_head 0x4 0x1 c s (fromWords_mt4PncAssignable g c f1 f2 x)⟩⟩

end Sys2Proof.Machine
end

section
/-! PROOFS. 43_sysex7_chunker.md: SX_FRAME and SX_PARSE are inverse, SX_CHUNK and SX_UNCHUNK are inverse up to the zero fill,
the segmenter emits what SX_CHUNK gives, and the reassembler's table, on which a message's packets give it back. -/

namespace Sys2Proof.Machine

/-! ## Framing and parsing (R500 to R502) -/

theorem sxParse_answers {m : List Byte} {g : U4} {e : Event} (s : State) (h : parse m g = .ok e) :
    Answers (.sxParse m g) s (.ok (.event e)) :=
  answers_of_ok Result.event h rfl

/-- The Event of a data sequence is a SysEx Event of the group given, and its frame is that sequence. -/
theorem parseLead_ok {g : U4} {b : U7} {rest : List U7} {e : Event} (h : parseLead g b rest = .ok e) :
    e.group = g ∧ e.wf = true ∧ e.isSysEx = true ∧ frame e = b :: rest := by
  unfold parseLead at h
  split at h
  next hzero =>
    split at h
    · cases h
      exact ⟨rfl, rfl, rfl, by rw [hzero]; rfl⟩
    · cases h
  next hzero =>
    split at h
    next hone =>
      cases h
      have hpos : 0 < b.toNat := Nat.pos_of_ne_zero fun h0 => hzero (BitVec.eq_of_toNat_eq h0)
      have hwf : (ManufacturerId.one b).wf = true := by
        simp only [ManufacturerId.wf, Bool.and_eq_true, decide_eq_true_eq]
        exact ⟨hpos, hone⟩
      exact ⟨rfl, hwf, rfl, rfl⟩
    next htwo =>
      split at h
      · cases h
        refine ⟨rfl, rfl, rfl, ?_⟩
        have hb := b.isLt
        obtain rfl | rfl : b = 0x7E#7 ∨ b = 0x7F#7 := by
          simp only [← BitVec.toNat_inj, BitVec.reduceToNat]
          omega
        · rfl
        · rfl
      · cases h

/-- R502: SX_PARSE accepts exactly the frames of the SysEx Events of its group. -/
theorem parse_ok_iff {m : List Byte} {g : U4} {e : Event} :
    parse m g = .ok e ↔ e.group = g ∧ e.wf = true ∧ e.isSysEx = true ∧ (frame e).map byte7 = m := by
  constructor
  · intro h
    obtain ⟨h7, b, rest, hm, hlead⟩ := parse_ok h
    obtain ⟨hgroup, hwf, hsysex, hframe⟩ := parseLead_ok hlead
    exact ⟨hgroup, hwf, hsysex, by rw [hframe, ← hm, map_byte7_low7 m h7]⟩
  · rintro ⟨rfl, hwf, hsysex, rfl⟩
    exact parse_frame hwf hsysex

/-- SX_FRAME of a SysEx Event gives its frame, and SX_PARSE of the frame gives the Event. -/
theorem frame_and_parse_answer {e : Event} (s : State) (hwf : e.wf = true) (he : e.isSysEx = true) :
    Answers (.sxFrame e) s (.ok (.data (frame e))) ∧
      Answers (.sxParse ((frame e).map fun x => dataByte x.toNat) e.group) s (.ok (.event e)) := by
  refine ⟨sxFrame_answers s hwf he, ?_⟩
  rw [map_dataByte]
  exact sxParse_answers s (parse_frame hwf he)

/-- The frame of a SysEx Event holds a whole header: three bytes after the lead byte 0x00 included, four after a Universal
lead byte included. -/
theorem frame_header {e : Event} (hwf : e.wf = true) (he : e.isSysEx = true) :
    ((frame e).head? = some 0x00#7 → 3 ≤ (frame e).length) ∧
      ((frame e).head? = some 0x7E#7 ∨ (frame e).head? = some 0x7F#7 → 4 ≤ (frame e).length) := by
  cases e with
  | sysex7 g m d =>
    cases m with
    | one id =>
      simp only [Event.wf, ManufacturerId.wf, Bool.and_eq_true, decide_eq_true_eq] at hwf
      simp only [frame, manufacturerBytes, List.cons_append, List.head?_cons, Option.some.injEq, ← BitVec.toNat_inj,
        BitVec.reduceToNat]
      omega
    | three b1 b2 => simp [frame, manufacturerBytes]
  | universalSysex7 g k dev s1 s2 d => cases k <;> simp [frame, universalLead]
  | _ => cases he

/-- A byte of 0x80 or more is in no frame. -/
theorem lt_of_mem_map_byte7 {d : List U7} {x : Byte} (h : x ∈ d.map byte7) : x.toNat < 0x80 :=
  (all_is7_iff _).mp (all_is7_byte7 d) x h

/-- The first byte of 7-bit bytes, as the value it holds. -/
theorem head?_map_byte7 {d : List U7} {v : U7} (h : (d.map byte7).head? = some (byte7 v)) : d.head? = some v := by
  rw [List.head?_map, Option.map_eq_some_iff] at h
  obtain ⟨x, hx, hv⟩ := h
  rw [hx, ← low7_byte7 x, hv, low7_byte7]

/-- R501: what SX_PARSE rejects. -/
theorem sxParse_fails {m : List Byte} (g : U4) (s : State)
    (h : m = [] ∨ (∃ x ∈ m, 0x80 ≤ x.toNat) ∨ (m.head? = some 0x00 ∧ m.length < 3) ∨
      ((m.head? = some 0x7E ∨ m.head? = some 0x7F) ∧ m.length < 4)) :
    Answers (.sxParse m g) s (.error .malformedWireData) := by
  cases hparse : parse m g with
  | error k => exact answers_of_error Result.event (parse_error hparse ▸ hparse) rfl
  | ok e =>
    obtain ⟨-, hwf, he, rfl⟩ := parse_ok_iff.mp hparse
    obtain ⟨hthree, huniversal⟩ := frame_header hwf he
    rw [List.length_map] at h
    rcases h with hnil | ⟨x, hx, h80⟩ | ⟨hhead, hlen⟩ | ⟨hhead, hlen⟩
    · exact absurd (List.map_eq_nil_iff.mp hnil) (frame_ne_nil he)
    · exact absurd (lt_of_mem_map_byte7 hx) (Nat.not_lt.mpr h80)
    · exact absurd (hthree (head?_map_byte7 hhead)) (Nat.not_le.mpr hlen)
    · exact absurd (huniversal (hhead.imp head?_map_byte7 head?_map_byte7)) (Nat.not_le.mpr hlen)

/-- Settles O38: each form is the frame of its Event, and no frame has the shape of a rejected sequence. -/
theorem framingAndParsing : Obligations.FramingAndParsing := by
  unfold Obligations.FramingAndParsing
  intro g d b1 b2 b3 s
  obtain ⟨hframe3, hparse3⟩ := frame_and_parse_answer (e := .sysex7 g (.three b1 b2) d) s rfl rfl
  obtain ⟨hframeN, hparseN⟩ := frame_and_parse_answer (e := .universalSysex7 g .nonRealtime b1 b2 b3 d) s rfl rfl
  obtain ⟨hframeR, hparseR⟩ := frame_and_parse_answer (e := .universalSysex7 g .realtime b1 b2 b3 d) s rfl rfl
  refine ⟨fun e he => atBoundary_illTyped _ (by rw [he, Bool.and_false]), fun id hlo hhi => ?_, hframe3, hparse3,
    hframeN, hparseN, hframeR, hparseR, fun m hm => sxParse_fails g s hm⟩
  have hwf : (Event.sysex7 g (.one id) d).wf = true := by simp [Event.wf, ManufacturerId.wf, hlo, hhi]
  exact frame_and_parse_answer s hwf rfl

/-- Settles O39: SX_PARSE accepts exactly the frames of the SysEx Events of its group. -/
theorem framingLaws : Obligations.FramingLaws := by
  unfold Obligations.FramingLaws
  refine ⟨fun e s hwf he => ⟨frame e, frame_and_parse_answer s hwf he⟩, fun m g e s h => ?_⟩
  have hparse : parse m g = .ok e := ok_of_answers (fun _ _ => Result.event.inj) h rfl
  obtain ⟨hgroup, hwf, he, hm⟩ := parse_ok_iff.mp hparse
  exact ⟨hgroup, frame e, sxFrame_answers s hwf he, by rw [map_dataByte, hm]⟩

/-! ## The packet of a stride in numbers (R153, R505) -/

section stride

variable (d : List U7) (g : U4) (pos : Nat)

theorem mt_stride : (stride d g pos).mt = 0x3 := by
  rw [mt_eq, stride_eq, msgType_packetOf]
  rfl

theorem grp_stride : (stride d g pos).grp = g.toNat := by rw [grp_eq, stride_eq, groupOf_packetOf]

theorem cnt_stride : (stride d g pos).cnt = min 6 (d.length - pos) := by
  rw [cnt_eq, stride_eq, countOf_packetOf _ _ _ (strideBytes_length_le d pos), strideBytes_length]

theorem st_stride : (stride d g pos).st =
    if pos = 0 then (if d.length ≤ 6 then 0x0 else 0x1) else if d.length - pos ≤ 6 then 0x3 else 0x2 := by
  rw [st_eq, stride_eq, statusOf_packetOf, strideStatus]
  split <;> split <;> rfl

/-- A slot of a packet is its data byte, or zero fill. -/
theorem slot_packetOf (st : PacketStatus) (b : List U7) {j : Nat} (hj : j < 6) :
    (packetOf g st b).slot j = (b.getD j 0#7).toNat := by
  rw [slot_eq _ (by rwa [slots_length])]
  simp only [slots_packetOf, List.getElem_map, List.getElem_range, byte7_toNat]

/-- The slots the byte count delimits hold the data from the position on; the others are zero fill. -/
theorem slot_stride {j : Nat} (hj : j < 6) :
    (stride d g pos).slot j = if j < (stride d g pos).cnt then (d.getD (pos + j) 0).toNat else 0 := by
  rw [cnt_stride, stride_eq, slot_packetOf g _ _ hj]
  split
  · rw [strideBytes, List.getD_eq_getElem?_getD, List.getElem?_take_of_lt ‹_›, List.getElem?_drop,
      List.getD_eq_getElem?_getD]
    rfl
  · rw [List.getD_eq_default _ _ (by rw [strideBytes_length]; omega)]
    rfl

end stride

theorem getElem?_chunk {d : List U7} {g : U4} {k : Nat} {p : Packet} (h : (chunk d g)[k]? = some p) :
    p = stride d g (6 * k) := by
  rw [chunk_eq, List.getElem?_map, Option.map_eq_some_iff] at h
  obtain ⟨j, hj, rfl⟩ := h
  rw [(List.getElem?_eq_some_iff.mp hj).2.symm, List.getElem_range]

theorem flatMap_bytes_of_valid {ps : List Packet} (h : ∀ p ∈ ps, packetValid p = true) :
    ps.flatMap Packet.bytes = ps.flatMap packetBytes :=
  List.flatMap_congr fun p hp => bytes_eq (valid_count_le ((valid_iff p).mpr (h p hp)))

theorem flatMap_packetBytes_chunk (d : List U7) (g : U4) : (chunk d g).flatMap packetBytes = d := by
  rw [chunk, flatMap_packetBytes_chunkLoop d g _ 0 (by omega), List.drop_zero]

/-- Settles O40: packet `k` is the stride at position `6k`. -/
theorem chunkPackets : Obligations.ChunkPackets := by
  unfold Obligations.ChunkPackets
  intro d g s
  refine ⟨chunk d g, rfl, chunk_length d g, ?_, fun k p hp => ?_⟩
  · rw [flatMap_bytes_of_valid fun p hp => (chunk_valid hp).1, flatMap_packetBytes_chunk]
  · obtain rfl := getElem?_chunk hp
    have hzero : 6 * k = 0 ↔ k = 0 := by omega
    refine ⟨mt_stride .., grp_stride .., cnt_stride .., ?_, fun j => slot_stride d g _⟩
    simp only [st_stride, hzero]

/-! ## Whole messages (R515, R516) -/

theorem packetStatus?_eq_some_iff (p : Packet) (st : PacketStatus) :
    packetStatus? p = some st ↔ p.st = st.code.toNat := by
  rw [st_eq, BitVec.toNat_inj, packetStatus?]
  exact ⟨fun h => (PacketStatus.ofCode?_eq_some h).symm, fun h => h ▸ PacketStatus.ofCode?_code st⟩

theorem packetStatus?_beq_iff (p : Packet) (st : PacketStatus) :
    (packetStatus? p == some st) = true ↔ p.st = st.code.toNat := by
  rw [beq_iff_eq, packetStatus?_eq_some_iff]

/-- The statuses after a `start`, by their values. -/
theorem contsThenEnd_iff (ps : List Packet) :
    contsThenEnd ps = true ↔ ∃ n, ps.map Packet.st = List.replicate n 0x2 ++ [0x3] := by
  induction ps with
  | nil => simp [contsThenEnd]
  | cons p ps ih =>
    cases ps with
    | nil =>
      rw [contsThenEnd, packetStatus?_beq_iff]
      constructor
      · intro h
        exact ⟨0, congrArg (fun v => [v]) h⟩
      · rintro ⟨_ | n, hn⟩
        · exact List.head_eq_of_cons_eq hn
        · simp [List.replicate_succ] at hn
    | cons q ps =>
      rw [contsThenEnd, Bool.and_eq_true, packetStatus?_beq_iff, ih]
      constructor
      · rintro ⟨h, n, hn⟩
        exact ⟨n + 1, by rw [List.map_cons, h, hn]; rfl⟩
      · rintro ⟨_ | n, hn⟩
        · simp at hn
        · rw [List.replicate_succ, List.cons_append, List.map_cons, List.cons.injEq] at hn
          exact ⟨hn.1, n, hn.2⟩

/-- R516: the status sequence of a whole message, by the values. -/
theorem statusesOk_iff (ps : List Packet) :
    statusesOk ps = true ↔ ps.map Packet.st = [] ∨ ps.map Packet.st = [0x0] ∨
      ∃ n, ps.map Packet.st = 0x1 :: List.replicate n 0x2 ++ [0x3] := by
  obtain _ | ⟨p, _ | ⟨q, ps⟩⟩ := ps
  · simp [statusesOk]
  · rw [statusesOk, packetStatus?_beq_iff]
    simp [PacketStatus.code]
  · rw [statusesOk, Bool.and_eq_true, packetStatus?_beq_iff, contsThenEnd_iff, List.map_cons]
    simp [PacketStatus.code]

/-- What SX_UNCHUNK accepts, in numbers. -/
theorem unchunk_accepts_iff (ps : List Packet) :
    unchunk ps = .ok (ps.flatMap packetBytes) ↔ (∀ p ∈ ps, p.Valid) ∧ (∀ p ∈ ps, ∀ q ∈ ps, p.grp = q.grp) ∧
      (ps.map Packet.st = [] ∨ ps.map Packet.st = [0x0] ∨
        ∃ n, ps.map Packet.st = 0x1 :: List.replicate n 0x2 ++ [0x3]) := by
  rw [unchunk_ok_iff, statusesOk_iff, List.all_eq_true]
  simp only [valid_iff, grp_eq, BitVec.toNat_inj, and_true]

/-- Settles O41: the three checks of SX_UNCHUNK are the three parts of a whole message. -/
theorem unchunkAcceptsWholeMessages : Obligations.UnchunkAcceptsWholeMessages := by
  unfold Obligations.UnchunkAcceptsWholeMessages
  intro ps s
  rw [← unchunk_accepts_iff ps]
  refine ⟨fun h => ?_, fun h => ?_⟩
  · have hvalid := List.all_eq_true.mp ((unchunk_ok_iff ps _).mp h).1
    rw [flatMap_bytes_of_valid hvalid]
    exact answers_of_ok Result.data h rfl
  · exact answers_of_error Result.data ((unchunk_cases ps).resolve_left h) rfl

/-! ## Chunking what was unchunked (R517) -/

/-- The statuses of a whole message of `n` packets. -/
def messageStatuses : Nat → List Nat
  | 0 => []
  | 1 => [0x0]
  | n + 2 => 0x1 :: List.replicate n 0x2 ++ [0x3]

/-- The number of its packets determines the statuses of a whole message. -/
theorem statuses_of_statusesOk {ps : List Packet} (h : statusesOk ps = true) :
    ps.map Packet.st = messageStatuses ps.length := by
  rw [← ps.length_map (f := Packet.st)]
  rcases (statusesOk_iff ps).mp h with hst | hst | ⟨n, hst⟩
  · rw [hst]
    rfl
  · rw [hst]
    rfl
  · have hlen : (0x1 :: List.replicate n 0x2 ++ [0x3]).length = n + 2 := by simp
    rw [hst, hlen]
    rfl

section blocks

variable {α : Type} {n k : Nat} {L : List (List α)}

/-- In a concatenation of blocks of which all but the last have `n` elements, block `k` starts at position `n * k`. -/
theorem drop_flatten_blocks (h : ∀ b ∈ L.dropLast, b.length = n) (hk : k < L.length) :
    L.flatten.drop (n * k) = L[k] ++ (L.drop (k + 1)).flatten := by
  have hfull : (L.map List.length).take k = List.replicate k n := by
    rw [← List.map_take, List.eq_replicate_iff, List.length_map, List.length_take_of_le hk.le]
    refine ⟨rfl, fun m hm => ?_⟩
    obtain ⟨b, hb, rfl⟩ := List.mem_map.mp hm
    have htake : L.take k = L.dropLast.take k := by
      rw [List.dropLast_eq_take, List.take_take, Nat.min_eq_left (Nat.le_sub_one_of_lt hk)]
    exact h b (List.mem_of_mem_take (htake ▸ hb))
  have hdrop := List.drop_sum_flatten L k
  rw [hfull, List.sum_replicate_nat, Nat.mul_comm] at hdrop
  rw [hdrop, List.drop_eq_getElem_cons hk, List.flatten_cons]

end blocks

theorem cnt_le_six {p : Packet} (h : packetValid p = true) : p.cnt ≤ 6 :=
  cnt_eq p ▸ valid_count_le ((valid_iff p).mpr h)

theorem length_packetBytes {p : Packet} (h : packetValid p = true) : (packetBytes p).length = p.cnt := by
  rw [packetBytes, List.length_map, countedSlots_length (cnt_eq p ▸ cnt_le_six h), cnt_eq]

section filled

/-- Valid packets filled as SX_CHUNK fills them: six bytes in each but the last, and at least one in the last (R517). -/
structure Filled (ps : List Packet) : Prop where
  valid : ∀ q ∈ ps, packetValid q = true
  full : ∀ q ∈ ps.dropLast, q.cnt = 6
  last : ∀ q, ps.getLast? = some q → 1 ≤ q.cnt

variable {ps : List Packet} {k : Nat} {a : Packet}

/-- The bytes from packet `k` on: its own and those of the packets after it. -/
theorem Filled.drop_flatMap (hf : Filled ps) (ha : ps[k]? = some a) :
    (ps.flatMap packetBytes).drop (6 * k) = packetBytes a ++ (ps.drop (k + 1)).flatMap packetBytes := by
  obtain ⟨hk, rfl⟩ := List.getElem?_eq_some_iff.mp ha
  have hblocks : ∀ b ∈ (ps.map packetBytes).dropLast, b.length = 6 := by
    rw [← List.map_dropLast]
    intro b hb
    obtain ⟨q, hq, rfl⟩ := List.mem_map.mp hb
    rw [length_packetBytes (hf.valid q (List.mem_of_mem_dropLast hq)), hf.full q hq]
  rw [List.flatMap_def, drop_flatten_blocks hblocks (by rwa [List.length_map]), List.getElem_map, ← List.map_drop,
    List.flatMap_def]

/-- A packet before the last has six bytes; the last has those that are left. -/
theorem Filled.cnt_eq_min (hf : Filled ps) (ha : ps[k]? = some a) :
    a.cnt = min 6 ((ps.flatMap packetBytes).length - 6 * k) := by
  have hlen := congrArg List.length (hf.drop_flatMap ha)
  have hvalid := hf.valid a (List.mem_of_getElem? ha)
  rw [List.length_drop, List.length_append, length_packetBytes hvalid] at hlen
  rcases Nat.lt_or_ge (k + 1) ps.length with hmore | hlast
  · have hmem : a ∈ ps.dropLast := by
      refine List.mem_of_getElem? (i := k) ?_
      rw [List.getElem?_dropLast, if_pos (Nat.lt_sub_of_add_lt hmore), ha]
    rw [hf.full a hmem] at hlen ⊢
    omega
  · rw [List.drop_eq_nil_of_le hlast, List.flatMap_nil, List.length_nil] at hlen
    have hsix := cnt_le_six hvalid
    omega

/-- The stride of the concatenated bytes at `6k` holds the bytes of packet `k`. -/
theorem Filled.strideBytes_eq (hf : Filled ps) (ha : ps[k]? = some a) :
    strideBytes (ps.flatMap packetBytes) (6 * k) = packetBytes a := by
  rw [strideBytes, hf.drop_flatMap ha, ← hf.cnt_eq_min ha, ← length_packetBytes (hf.valid a (List.mem_of_getElem? ha)),
    List.take_left]

/-- SX_CHUNK of the bytes of filled packets gives as many packets. -/
theorem Filled.length_chunk (hf : Filled ps) (hne : ps ≠ []) (g : U4) :
    (chunk (ps.flatMap packetBytes) g).length = ps.length := by
  have hpos := List.length_pos_iff.mpr hne
  have hlast : ps[ps.length - 1]? = some (ps.getLast hne) := by
    rw [← List.getLast?_eq_getElem?, List.getLast?_eq_some_getLast hne]
  have hcnt := hf.cnt_eq_min hlast
  have hone := hf.last _ (List.getLast?_eq_some_getLast hne)
  have hlen := congrArg List.length (hf.drop_flatMap hlast)
  have hsix := cnt_le_six (hf.valid _ (List.getLast_mem hne))
  rw [List.length_drop, List.length_append, length_packetBytes (hf.valid _ (List.getLast_mem hne)),
    List.drop_eq_nil_of_le (by omega), List.flatMap_nil, List.length_nil] at hlen
  rw [chunk_length, packetCount, Config.packetCapacity]
  omega

end filled

/-- The data byte of a counted slot, read back from the packet's bytes. -/
theorem getD_packetBytes {p : Packet} (h : packetValid p = true) (j : Nat) :
    ((packetBytes p).getD j 0#7).toNat = if j < p.cnt then p.slot j else 0 := by
  obtain ⟨-, -, hcnt, hslots⟩ := (valid_iff p).mpr h
  split
  next hj =>
    rw [← bytes_eq (cnt_eq p ▸ hcnt), Packet.bytes, List.getD_eq_getElem _ _ (by simpa using hj), List.getElem_map,
      List.getElem_range, BitVec.toNat_ofNat, Nat.mod_eq_of_lt (hslots j hj)]
  next hj =>
    rw [List.getD_eq_default _ _ (by rw [length_packetBytes h]; omega)]
    rfl

/-- Packets that unchunk and are filled as SX_CHUNK fills them are what SX_CHUNK emits, up to the zero fill. -/
theorem Filled.chunk_unchunk {ps : List Packet} {d : List U7} {g : U4} (hf : Filled ps) (hu : unchunk ps = .ok d)
    (hg : ∀ p ∈ ps, groupOf p.w1 = g) (hne : ps ≠ []) :
    (chunk d g).length = ps.length ∧ ∀ (k : Nat) (a b : Packet), ps[k]? = some a → (chunk d g)[k]? = some b →
      b.mt = a.mt ∧ b.grp = a.grp ∧ b.st = a.st ∧ b.cnt = a.cnt ∧
        ∀ j, j < 6 → b.slot j = if j < a.cnt then a.slot j else 0 := by
  obtain ⟨-, -, hst, rfl⟩ := (unchunk_ok_iff ps d).mp hu
  have hlen := hf.length_chunk hne g
  refine ⟨hlen, fun k a b ha hb => ?_⟩
  have hmem : a ∈ ps := List.mem_of_getElem? ha
  have hsame := (statuses_of_statusesOk (statusesOk_chunk _ g)).trans (hlen ▸ (statuses_of_statusesOk hst).symm)
  have hstatuses := congrArg (·[k]?) hsame
  simp only [List.getElem?_map, ha, hb, Option.map_some, Option.some.injEq] at hstatuses
  obtain rfl := getElem?_chunk hb
  refine ⟨?_, ?_, hstatuses, ?_, fun j hj => ?_⟩
  · rw [mt_stride, ((valid_iff a).mpr (hf.valid a hmem)).1]
  · rw [grp_stride, grp_eq, hg a hmem]
  · rw [cnt_stride, ← hf.cnt_eq_min ha]
  · rw [stride_eq, slot_packetOf g _ _ hj, hf.strideBytes_eq ha, getD_packetBytes (hf.valid a hmem)]

/-- Settles O42: SX_UNCHUNK undoes SX_CHUNK; the other way round, a message's length fixes the statuses of its packets, and
their fill the place of each packet's bytes. -/
theorem chunkRoundTrip : Obligations.ChunkRoundTrip := by
  unfold Obligations.ChunkRoundTrip
  refine ⟨fun d g s => ⟨chunk d g, rfl, answers_of_ok Result.data (unchunk_chunk d g) rfl⟩,
    fun p rest d s h hfull hlast => ?_⟩
  have hu : unchunk (p :: rest) = .ok d := ok_of_answers (fun _ _ => Result.data.inj) h rfl
  obtain ⟨hvalid, hgroups, -⟩ := (unchunk_ok_iff _ d).mp hu
  have hfilled : Filled (p :: rest) := ⟨List.all_eq_true.mp hvalid, hfull, hlast⟩
  have hchunk := hfilled.chunk_unchunk hu (fun q hq => hgroups q hq p List.mem_cons_self) (List.cons_ne_nil _ _)
  rw [ofNat_grp]
  exact ⟨chunk d (groupOf p.w1), rfl, hchunk.1, hchunk.2⟩

/-! ## What an instruction leaves unchanged (R81, R109, R113, R705) -/

theorem touchesRa_eq_false_iff (g : U4) (i : Instr) : touchesRa g i = false ↔
    effectOf i ≠ .context g ∧ effectOf i ≠ .contexts ∧ effectOf i ≠ .everything := by
  simp [touchesRa, and_assoc]

/-- R520: SX_REASM_PUSH writes the context of the packet's group, if the packet has message type 0x3. -/
theorem effectOf_sxReasmPush (w1 w2 : Word) :
    effectOf (.sxReasmPush w1 w2) = if msgType w1 = 0x3#4 then .context (groupOf w1) else .none := by
  have htype := mt_eq_three ⟨w1, w2⟩
  have hgroup : BitVec.ofNat 4 (w1.toNat / 2 ^ 24) = groupOf w1 := by
    apply BitVec.eq_of_toNat_eq
    rw [groupOf_toNat, BitVec.toNat_ofNat]
  simp only [Packet.mt] at htype
  simp only [effectOf, htype, hgroup]

/-- `run` completes from `s` and leaves the parameter, `SEG` if `seg` is false, and each `RA[g]` with `ra g` false. -/
def Leaves (s : State) (seg : Bool) (ra : U4 → Bool) (run : State → Answer) : Prop :=
  ∃ t, run s = .next t ∧ t.pSxMax = s.pSxMax ∧ (seg = false → t.seg = s.seg) ∧
    ∀ g, ra g = false → t.raOf g = s.raOf g

theorem Leaves.of_response {s : State} {seg : Bool} {ra : U4 → Bool} {run : State → Answer} {r : Response}
    (h : run s = .next (s.withResponse r)) : Leaves s seg ra run := ⟨_, h, rfl, fun _ => rfl, fun _ _ => rfl⟩

theorem Leaves.of_setSeg {s : State} {ra : U4 → Bool} {run : State → Answer} {c : SegContext} {r : Response}
    (h : run s = .next ((s.setSeg c).withResponse r)) : Leaves s true ra run := ⟨_, h, rfl, nofun, fun _ _ => rfl⟩

theorem Leaves.of_setRa {s : State} {seg : Bool} {ra : U4 → Bool} {run : State → Answer} {g : U4} {c : ReasmContext}
    {r : Response} (h : run s = .next ((s.setRa g c).withResponse r)) (hg : ra g = true) : Leaves s seg ra run := by
  refine ⟨_, h, rfl, fun _ => rfl, fun g' hg' => State.raOf_setRa_ne s c ?_⟩
  rintro rfl
  exact absurd hg (by rw [hg']; decide)

/-- A packet leaves everything but the context of its own group. -/
theorem pushPacket_leaves (s : State) {p : Packet} {seg : Bool} {ra : U4 → Bool}
    (h : msgType p.w1 = 0x3#4 → ra (groupOf p.w1) = true) : Leaves s seg ra (pushPacket · p) := by
  obtain ⟨r, hr | ⟨htype, c, hr⟩⟩ := pushPacket_next s p
  · exact .of_response hr
  · exact .of_setRa hr (h htype)

/-- A well-formed instruction completes, and leaves the contexts that its effect does not name. -/
theorem exec_leaves {i : Instr} (hwf : i.wf = true) (s : State) :
    Leaves s (touchesSeg i) (touchesRa · i) (exec i) := by
  by_cases hp : isPure i = true
  · obtain ⟨r, hr⟩ := answersEverywhere_of_isPure hp hwf
    exact .of_response (hr s)
  · cases i with
    | sxSegLoad d g =>
      cases hc : s.withinCapacity d.length with
      | true => exact .of_setSeg (execSxSegLoad_within g hc)
      | false => exact .of_response (execSxSegLoad_beyond g hc)
    | sxSegNext =>
      cases hact : s.seg.active with
      | true => exact .of_setSeg (execSxSegNext_active hact)
      | false => exact .of_response (execSxSegNext_idle hact)
    | sxReasmPush w1 w2 =>
      refine pushPacket_leaves s (p := ⟨w1, w2⟩) fun htype => ?_
      simp [touchesRa, effectOf_sxReasmPush, if_pos htype]
    | ump3Complete | ump3Start | ump3Continue | ump3End =>
      exact pushPacket_leaves s fun _ => by simp [touchesRa, effectOf]
    | sxReasmReset sel =>
      obtain _ | _ | g := sel
      · exact ⟨_, returnOk_eq s.clearAllRa .none, rfl, fun _ => rfl, nofun⟩
      · exact ⟨_, returnOk_eq s.clearAllRa .none, rfl, fun _ => rfl, nofun⟩
      · exact .of_setRa (returnOk_eq (s.clearRa g) .none) (by simp [touchesRa, effectOf])
    | reset => exact ⟨_, returnOk_eq (s.setSeg SegContext.idle).clearAllRa .none, rfl, nofun, nofun⟩
    | _ => exact absurd rfl hp

/-! ## The segmenter (R510 to R512) -/

/-- Settles O43: a load within the bound writes what it loads; the packet emitted is the stride at the position. -/
theorem segmenterCommands : Obligations.SegmenterCommands := by
  unfold Obligations.SegmenterCommands
  refine fun s => ⟨fun d g => ⟨fun hcap hd => ?_, fun hcap hd => ?_, fun hcap => ?_⟩, execSxSegNext_idle,
    fun hact hlen hpos => ?_⟩
  · subst hd
    exact execSxSegLoad_within g ((withinCapacity_iff s _).mpr hcap)
  · exact segLoaded_of_ne g hd ▸ execSxSegLoad_within g ((withinCapacity_iff s _).mpr hcap)
  · exact execSxSegLoad_beyond g ((withinCapacity_eq_false s _).mpr hcap)
  · have hnext := execSxSegNext_active hact
    refine ⟨stride s.seg.data s.seg.group s.seg.pos, mt_stride .., grp_stride .., hlen ▸ cnt_stride ..,
      hlen ▸ st_stride .., fun j => slot_stride _ _ _, fun hlast => ?_, fun hmore => ?_⟩
    · rw [segAdvanced_last (by omega)] at hnext
      exact hnext
    · rw [segAdvanced_more (by omega), Nat.min_eq_left hmore.le] at hnext
      exact hnext

/-- The packets that a segmenter context has still to emit: those of SX_CHUNK of its data from its position on. -/
def SegContext.pending (c : SegContext) : List Packet := (chunk c.data c.group).drop (c.pos / 6)

theorem pending_idle : SegContext.idle.pending = [] := rfl

theorem pending_segLoaded (d : List U7) (g : U4) : (segLoaded d g).pending = chunk d g := by
  by_cases hd : d = []
  · subst hd
    exact pending_idle
  · rw [segLoaded_of_ne g hd, SegContext.pending, Nat.zero_div, List.drop_zero]

/-- R511: an active context emits the first pending packet and keeps the others. -/
theorem SegContext.Inv.pending_eq {bound : Option Nat} {c : SegContext} (h : c.Inv bound) (hact : c.active = true) :
    c.pending = stride c.data c.group c.pos :: (segAdvanced c).pending := by
  obtain ⟨hlt, hmod⟩ := h.pos hact
  have hpos : 6 * (c.pos / 6) = c.pos := by omega
  have hlen := h.len
  have hk : c.pos / 6 < (chunk c.data c.group).length := by
    rw [chunk_length, packetCount, Config.packetCapacity]
    omega
  have hhead : (chunk c.data c.group)[c.pos / 6] = stride c.data c.group c.pos := by
    rw [getElem?_chunk (List.getElem?_eq_getElem hk), hpos]
  rw [pending, List.drop_eq_getElem_cons hk, hhead]
  by_cases hlast : c.pos + min 6 (c.len - c.pos) = c.len
  · rw [segAdvanced_last hlast, pending_idle, List.drop_eq_nil_of_le]
    rw [chunk_length, packetCount, Config.packetCapacity]
    omega
  · have hnext : (c.pos + min 6 (c.len - c.pos)) / 6 = c.pos / 6 + 1 := by omega
    rw [segAdvanced_more hlast, pending, hnext]

/-- The responses to `n` SX_SEG_NEXT when the packets `ps` are pending: the packets in order, then Done. -/
def emitted : Nat → List Packet → List Response
  | 0, _ => []
  | n + 1, [] => .ok (.segOut .done) :: emitted n []
  | n + 1, p :: ps => .ok (.segOut (.packet p)) :: emitted n ps

theorem emitted_eq_take : ∀ {n m : Nat} (ps : List Packet), n ≤ m → emitted n ps =
    ((ps.map fun p => Response.ok (.segOut (.packet p))) ++ List.replicate m (Response.ok (.segOut .done))).take n
  | 0, _, _, _ => rfl
  | n + 1, m, p :: ps, h => by
    rw [emitted, emitted_eq_take ps (Nat.le_of_succ_le h)]
    rfl
  | n + 1, m + 1, [], h => by
    rw [emitted, emitted_eq_take [] (Nat.le_of_succ_le_succ h)]
    rfl

/-- R511: SX_SEG_NEXT answers with the first of the responses due and leaves the others due. -/
theorem execSxSegNext_emits {s : State} (h : s.seg.Inv none) :
    ∃ t r, exec .sxSegNext s = .next t ∧ t.response = some r ∧ t.seg.Inv none ∧
      ∀ n, emitted (n + 1) s.seg.pending = r :: emitted n t.seg.pending := by
  cases hact : s.seg.active with
  | true => exact ⟨_, _, execSxSegNext_active hact, rfl, segAdvanced_inv h hact, fun n => by rw [h.pending_eq hact]; rfl⟩
  | false =>
    refine ⟨_, _, execSxSegNext_idle hact, rfl, h, fun n => ?_⟩
    rw [State.withResponse_seg, h.idle hact, pending_idle]
    rfl

theorem responsesTo_cons {sel : Instr → Bool} {i : Instr} {is : List Instr} {s t : State} (h : exec i s = .next t) :
    responsesTo sel (i :: is) s = (if sel i then t.response.toList else []) ++ responsesTo sel is t := by
  rw [responsesTo, h]

/-- Instructions that do not write `SEG` leave what is due. -/
theorem responsesTo_sxSegNext : ∀ {is : List Instr} {s : State}, s.seg.Inv none →
    (∀ i ∈ is, i.wf = true ∧ (i = .sxSegNext ∨ touchesSeg i = false)) →
    responsesTo (fun i => i == .sxSegNext) is s =
      emitted (is.filter fun i => i == .sxSegNext).length s.seg.pending
  | [], _, _, _ => rfl
  | i :: is, s, hinv, h => by
    obtain ⟨⟨hwf, hi⟩, his⟩ := List.forall_mem_cons.mp h
    by_cases hnext : i = .sxSegNext
    · subst hnext
      obtain ⟨t, r, hexec, hresp, hinv', hdue⟩ := execSxSegNext_emits hinv
      have hsel : (Instr.sxSegNext == .sxSegNext) = true := beq_self_eq_true _
      rw [responsesTo_cons hexec, if_pos hsel, responsesTo_sxSegNext hinv' his, List.filter_cons, if_pos hsel,
        List.length_cons, hdue, hresp]
      rfl
    · obtain ⟨t, hexec, -, hseg, -⟩ := exec_leaves hwf s
      have hseg := hseg (hi.resolve_left hnext)
      have hsel : ¬ (i == .sxSegNext) = true := fun he => hnext (eq_of_beq he)
      rw [responsesTo_cons hexec, if_neg hsel, responsesTo_sxSegNext (hseg ▸ hinv) his, List.filter_cons, if_neg hsel,
        hseg]
      rfl

/-- Settles O44: after a load the packets of SX_CHUNK are pending, and each SX_SEG_NEXT emits the first of them. -/
theorem segmenterLaw : Obligations.SegmenterLaw := by
  unfold Obligations.SegmenterLaw
  intro d g s t is hload hok his
  refine ⟨chunk d g, rfl, ?_⟩
  have hseg : t.seg = segLoaded d g := by
    cases hc : s.withinCapacity d.length with
    | true =>
      obtain rfl := next_inj ((execSxSegLoad_within g hc).symm.trans hload)
      rfl
    | false =>
      obtain rfl := next_inj ((execSxSegLoad_beyond g hc).symm.trans hload)
      cases hok
  have hinv : t.seg.Inv none := hseg ▸ segLoaded_inv g nofun
  rw [responsesTo_sxSegNext hinv his, emitted_eq_take _ (List.length_filter_le _ is), hseg, pending_segLoaded]

/-! ## One packet and the reassembler (R520 to R523) -/

/-- Settles O48: a selected context is cleared, and without one all are. -/
theorem reassemblerReset : Obligations.ReassemblerReset := by
  unfold Obligations.ReassemblerReset
  refine fun s => ⟨fun g => writesRa_of_clearRa rfl, ?_⟩
  rintro sel (rfl | rfl)
  · exact ⟨_, returnOk_eq s.clearAllRa .none, rfl, State.raOf_clearAllRa s, rfl, rfl, rfl⟩
  · exact ⟨_, returnOk_eq s.clearAllRa .none, rfl, State.raOf_clearAllRa s, rfl, rfl, rfl⟩

theorem length_bytes (p : Packet) : p.bytes.length = p.cnt := by rw [Packet.bytes, List.length_map, List.length_range]

/-- A valid packet, in numbers, is judged by its status and its context. -/
theorem exec_sxReasmPush_valid {p : Packet} (s : State) {st : PacketStatus} (hv : p.Valid) (hst : p.st = st.code.toNat) :
    exec (.sxReasmPush p.w1 p.w2) s = pushValid s (groupOf p.w1) st p.bytes := by
  rw [bytes_eq (valid_count_le hv)]
  exact pushPacket_valid ((valid_iff p).mp hv) ((packetStatus?_eq_some_iff p st).mpr hst)

theorem bodyValid_eq_false {p : Packet} (h : msgType p.w1 = 0x3#4) (hv : ¬ p.Valid) : bodyValid p = false := by
  simpa [valid_iff, packetValid, h] using hv

/-- Settles O45: the two rows of a packet that is not valid, and the rows of R521 for each status. -/
theorem reassemblerTable : Obligations.ReassemblerTable := by
  unfold Obligations.ReassemblerTable
  intro p s
  rw [ofNat_grp, Ne, mt_eq_three]
  refine ⟨pushPacket_otherType,
    fun htype hv => writesRa_of_clearRa (pushPacket_invalid htype (bodyValid_eq_false htype hv)),
    fun hv hact => ⟨fun hst => ?_, fun hst => ?_, fun hst => ?_⟩,
    fun hv hact => ⟨fun hst hcap => ?_, fun hst hcap => ?_, fun hst hcap => ?_, fun hst => ?_⟩⟩
  · exact (exec_sxReasmPush_valid (st := .complete) s hv hst).trans (pushValid_idle_complete _ hact)
  · exact writesRa_of_setRa ((exec_sxReasmPush_valid (st := .start) s hv hst).trans (pushValid_idle_start _ hact))
  · rcases hst with hst | hst
    · exact (exec_sxReasmPush_valid (st := .cont) s hv hst).trans (pushValid_idle_cont _ hact)
    · exact (exec_sxReasmPush_valid (st := .fin) s hv hst).trans (pushValid_idle_fin _ hact)
  · rw [← length_bytes, ← withinCapacity_iff] at hcap
    exact writesRa_of_setRa ((exec_sxReasmPush_valid (st := .cont) s hv hst).trans (pushValid_active_cont _ hact hcap))
  · rw [← length_bytes, ← withinCapacity_iff] at hcap
    exact writesRa_of_clearRa ((exec_sxReasmPush_valid (st := .fin) s hv hst).trans (pushValid_active_fin _ hact hcap))
  · rw [← length_bytes, ← withinCapacity_eq_false] at hcap
    rcases hst with hst | hst
    · exact writesRa_of_clearRa ((exec_sxReasmPush_valid (st := .cont) s hv hst).trans
        (pushValid_active_beyond _ hact (.inl rfl) hcap))
    · exact writesRa_of_clearRa ((exec_sxReasmPush_valid (st := .fin) s hv hst).trans
        (pushValid_active_beyond _ hact (.inr rfl) hcap))
  · rcases hst with hst | hst
    · exact writesRa_of_clearRa ((exec_sxReasmPush_valid (st := .complete) s hv hst).trans
        (pushValid_active_complete _ hact))
    · exact writesRa_of_clearRa ((exec_sxReasmPush_valid (st := .start) s hv hst).trans (pushValid_active_start _ hact))

/-! ## The packets of one message (R524) -/

/-- In every state with this bound and `RA[g]` as the context given, pushing the packets in order answers with the responses
given, one each, and leaves `RA[g]` idle; what is read of a state is its bound and `RA[g]` only. -/
inductive Feeds (g : U4) (bound : Option Nat) : ReasmContext → List Packet → List Response → Prop where
  | nil : Feeds g bound ReasmContext.idle [] []
  | cons {own c : ReasmContext} {p : Packet} {r : Response} {ps : List Packet} {rs : List Response}
      (hnext : ∀ s : State, s.pSxMax = bound → s.raOf g = own →
        exec (.sxReasmPush p.w1 p.w2) s = .next ((s.setRa g c).withResponse r))
      (hrest : Feeds g bound c ps rs) : Feeds g bound own (p :: ps) (r :: rs)

/-- The responses to the packets of one message: None for each but the last, and the message for the last. -/
def messageResponses (g : U4) (n : Nat) (d : List U7) : List Response :=
  List.replicate (n - 1) (.ok (.reasmOut .none)) ++ [.ok (.reasmOut (.message g d))]

theorem messageResponses_succ (g : U4) (n : Nat) (d : List U7) :
    messageResponses g (n + 2) d = .ok (.reasmOut .none) :: messageResponses g (n + 1) d := rfl

theorem exec_sxReasmPush_of_status {s : State} {g : U4} {p : Packet} {st : PacketStatus}
    (hp : packetValid p = true ∧ groupOf p.w1 = g) (hst : (packetStatus? p == some st) = true) :
    exec (.sxReasmPush p.w1 p.w2) s = pushValid s g st (packetBytes p) :=
  hp.2 ▸ pushPacket_valid hp.1 (eq_of_beq hst)

/-- Continues and one end complete an active message, if all of it is within the bound. -/
theorem feeds_contsThenEnd {g : U4} {bound : Option Nat} : ∀ {ps : List Packet} (buf : List U7),
    contsThenEnd ps = true → (∀ p ∈ ps, packetValid p = true ∧ groupOf p.w1 = g) →
    withinBound bound (buf ++ ps.flatMap packetBytes).length →
    Feeds g bound { active := true, buf := buf } ps (messageResponses g ps.length (buf ++ ps.flatMap packetBytes))
  | [], _, h, _, _ => by cases h
  | [p], buf, h, hps, hcap => by
    have hp := hps p List.mem_cons_self
    rw [List.flatMap_singleton] at hcap ⊢
    refine .cons (fun s hs ho => ?_) .nil
    rw [exec_sxReasmPush_of_status hp h, pushValid_active_fin _ (by rw [ho]), ho]
    · rfl
    · rwa [withinCapacity_iff, hs, ho, ← List.length_append]
  | p :: q :: ps, buf, h, hps, hcap => by
    rw [contsThenEnd, Bool.and_eq_true] at h
    obtain ⟨hp, hrest⟩ := List.forall_mem_cons.mp hps
    rw [List.flatMap_cons, ← List.append_assoc] at hcap ⊢
    refine .cons (fun s hs ho => ?_) (feeds_contsThenEnd (buf ++ packetBytes p) h.2 hrest hcap)
    rw [exec_sxReasmPush_of_status hp h.1, pushValid_active_cont _ (by rw [ho]), ho]
    rw [withinCapacity_iff, hs, ho, ← List.length_append]
    refine withinBound_mono ?_ hcap
    rw [List.length_append (as := buf ++ packetBytes p)]
    exact Nat.le_add_right _ _

/-- The packets of a whole message complete it in an idle context. -/
theorem feeds_statusesOk {g : U4} {bound : Option Nat} {ps : List Packet} (hne : ps ≠ []) (hst : statusesOk ps = true)
    (hps : ∀ p ∈ ps, packetValid p = true ∧ groupOf p.w1 = g)
    (hcap : withinBound bound (ps.flatMap packetBytes).length) :
    Feeds g bound ReasmContext.idle ps (messageResponses g ps.length (ps.flatMap packetBytes)) := by
  obtain _ | ⟨p, _ | ⟨q, ps⟩⟩ := ps
  · exact absurd rfl hne
  · have hp := hps p List.mem_cons_self
    rw [List.flatMap_singleton]
    refine .cons (fun s _ ho => ?_) .nil
    rw [State.setRa_self ho, exec_sxReasmPush_of_status hp hst]
    exact pushValid_idle_complete _ (by rw [ho]; rfl)
  · rw [statusesOk, Bool.and_eq_true] at hst
    obtain ⟨hp, hrest⟩ := List.forall_mem_cons.mp hps
    rw [List.flatMap_cons] at hcap ⊢
    refine .cons (fun s _ ho => ?_) (feeds_contsThenEnd (packetBytes p) hst.2 hrest hcap)
    rw [exec_sxReasmPush_of_status hp hst.1]
    exact pushValid_idle_start _ (by rw [ho]; rfl)

theorem after_cons {i : Instr} {is : List Instr} {s t : State} (h : exec i s = .next t) :
    after (i :: is) s = after is t := by
  rw [after, h]

/-- R81, R113: instructions that do not write `RA[g]` may be executed between the packets. -/
theorem Feeds.interleaved {g : U4} {bound : Option Nat} : ∀ {is : List Instr} {own : ReasmContext} {ps : List Packet}
    {rs : List Response} {s : State}, Feeds g bound own ps rs → s.pSxMax = bound → s.raOf g = own →
    (∀ i ∈ is, i.wf = true) → is.filter (touchesRa g) = ps.map (fun p => Instr.sxReasmPush p.w1 p.w2) →
    responsesTo (touchesRa g) is s = rs ∧ ∃ t, after is s = some t ∧ t.raOf g = ReasmContext.idle
  | [], _, _, _, s, .nil, _, ho, _, _ => ⟨rfl, s, rfl, ho⟩
  | i :: is, own, ps, rs, s, hfeeds, hs, ho, hwf, hfilter => by
    obtain ⟨hi, his⟩ := List.forall_mem_cons.mp hwf
    cases htouch : touchesRa g i with
    | false =>
      obtain ⟨t, hexec, hmax, -, hra⟩ := exec_leaves hi s
      rw [List.filter_cons, htouch] at hfilter
      rw [responsesTo_cons hexec, after_cons hexec, htouch]
      exact hfeeds.interleaved (hmax.trans hs) ((hra g htouch).trans ho) his hfilter
    | true =>
      rw [List.filter_cons, if_pos htouch] at hfilter
      cases hfeeds with
      | nil => cases hfilter
      | cons hnext hrest =>
        obtain ⟨rfl, htail⟩ := List.cons.inj hfilter
        have hexec := hnext s hs ho
        rw [responsesTo_cons hexec, after_cons hexec, htouch]
        have hown := State.raOf_setRa_same s g
        obtain ⟨hresp, hafter⟩ := hrest.interleaved (s := (s.setRa g _).withResponse _) hs (hown _) his htail
        exact ⟨congrArg _ hresp, hafter⟩

/-- Settles O46: the packets of SX_CHUNK are those of a whole message. -/
theorem reassemblerLaw : Obligations.ReassemblerLaw := by
  unfold Obligations.ReassemblerLaw
  intro d g s ps is hd hidle hcap hchunk hwf hfilter
  obtain rfl : chunk d g = ps :=
    Result.packets.inj (Response.ok.inj (answers_unique (i := .sxChunk d g) (s := s) rfl hchunk))
  have hfeeds := feeds_statusesOk (bound := s.pSxMax) (chunk_ne_nil d g hd) (statusesOk_chunk d g)
    (fun p hp => chunk_valid hp) (by rwa [flatMap_packetBytes_chunk])
  rw [flatMap_packetBytes_chunk] at hfeeds
  exact hfeeds.interleaved rfl hidle hwf hfilter

/-! ## Capacity (R523, R605) -/

theorem exists_bound_of_not_withinBound {bound : Option Nat} {n : Nat} (h : ¬ withinBound bound n) :
    ∃ m, bound = some m ∧ m < n := by
  simpa [withinBound] using h

/-- A command that ends with one response ends with no other. -/
theorem response_of_next {a : Answer} {s t : State} {r r' : Response} (h : a = .next (s.withResponse r))
    (ht : a = .next t) (hr : t.response = some r') : r' = r := by
  obtain rfl := next_inj (h.symm.trans ht)
  exact (Option.some.inj hr).symm

/-- Only a packet that would make the message of its active context longer than the bound is refused for capacity. -/
theorem pushValid_refusedCapacity {s t : State} {g : U4} {st : PacketStatus} {b : List U7}
    (h : pushValid s g st b = .next t) (hr : t.response = some (.error .refusedCapacity)) :
    (s.raOf g).active = true ∧ ¬ withinBound s.pSxMax ((s.raOf g).buf.length + b.length) ∧
      t.raOf g = ReasmContext.idle := by
  cases hact : (s.raOf g).active with
  | false =>
    cases st with
    | complete => cases response_of_next (pushValid_idle_complete b hact) h hr
    | start => cases response_of_next (pushValid_idle_start b hact) h hr
    | cont => cases response_of_next (pushValid_idle_cont b hact) h hr
    | fin => cases response_of_next (pushValid_idle_fin b hact) h hr
  | true =>
    refine ⟨rfl, ?_⟩
    have hbeyond (hst : st = .cont ∨ st = .fin)
        (hcap : s.withinCapacity ((s.raOf g).buf.length + b.length) = false) :
        ¬ withinBound s.pSxMax ((s.raOf g).buf.length + b.length) ∧ t.raOf g = ReasmContext.idle := by
      obtain rfl := next_inj ((pushValid_active_beyond b hact hst hcap).symm.trans h)
      exact ⟨(withinCapacity_eq_false s _).mp hcap, State.raOf_clearRa_same s g⟩
    cases st with
    | complete => cases response_of_next (pushValid_active_complete b hact) h hr
    | start => cases response_of_next (pushValid_active_start b hact) h hr
    | cont =>
      cases hcap : s.withinCapacity ((s.raOf g).buf.length + b.length) with
      | true => cases response_of_next (pushValid_active_cont b hact hcap) h hr
      | false => exact hbeyond (.inl rfl) hcap
    | fin =>
      cases hcap : s.withinCapacity ((s.raOf g).buf.length + b.length) with
      | true => cases response_of_next (pushValid_active_fin b hact hcap) h hr
      | false => exact hbeyond (.inr rfl) hcap

/-- What a packet that is refused for capacity met, and what it leaves. -/
theorem pushPacket_refusedCapacity {s t : State} {p : Packet} (h : pushPacket s p = .next t)
    (hr : t.response = some (.error .refusedCapacity)) :
    msgType p.w1 = 0x3#4 ∧ ∃ bound, s.pSxMax = some bound ∧ (s.raOf (groupOf p.w1)).active = true ∧
      bound < (s.raOf (groupOf p.w1)).buf.length + 6 ∧ t.raOf (groupOf p.w1) = ReasmContext.idle := by
  by_cases htype : msgType p.w1 = 0x3#4
  · cases hbody : bodyValid p with
    | false => cases response_of_next (pushPacket_invalid htype hbody) h hr
    | true =>
      have hv : packetValid p = true := by simp [packetValid, htype, hbody]
      obtain ⟨st, hst⟩ := packetValid_status hv
      obtain ⟨hact, hcap, hidle⟩ := pushValid_refusedCapacity ((pushPacket_valid hv hst).symm.trans h) hr
      obtain ⟨bound, hbound, hlt⟩ := exists_bound_of_not_withinBound hcap
      have hsix := packetBytes_length_le hbody
      exact ⟨htype, bound, hbound, hact, by omega, hidle⟩
  · cases response_of_next (pushPacket_otherType htype) h hr

/-- An instruction without a side effect answers as it does right after reset, where no bound is fixed. -/
theorem response_ne_refusedCapacity_of_isPure {i : Instr} {s t : State} (hp : isPure i = true) (h : exec i s = .next t) :
    t.response ≠ some (.error .refusedCapacity) := by
  intro hr
  cases hwf : i.wf with
  | false =>
    obtain ⟨op, hrefused⟩ := exec_illTyped hwf s
    cases hrefused.symm.trans h
  | true =>
    obtain ⟨r, hanswers⟩ := answersEverywhere_of_isPure hp hwf
    obtain rfl := response_of_next (hanswers s) h hr
    exact (State.Inv.exec invariantHoldsAtReset (hanswers State.reset)).refusal rfl rfl

/-- Settles O49: only a load and a packet check the capacity. -/
theorem capacityRefusals : Obligations.CapacityRefusals := by
  unfold Obligations.CapacityRefusals
  intro i s t h hr
  by_cases hp : isPure i = true
  · exact absurd hr (response_ne_refusedCapacity_of_isPure hp h)
  · cases i with
    | sxSegLoad d g =>
      cases hc : s.withinCapacity d.length with
      | true => cases response_of_next (execSxSegLoad_within g hc) h hr
      | false =>
        obtain ⟨bound, hbound, hlt⟩ := exists_bound_of_not_withinBound ((withinCapacity_eq_false s _).mp hc)
        obtain rfl := next_inj ((execSxSegLoad_beyond g hc).symm.trans h)
        exact ⟨bound, hbound, .inl ⟨d, g, rfl, hlt, rfl⟩⟩
    | sxSegNext =>
      cases hact : s.seg.active with
      | true => cases response_of_next (execSxSegNext_active hact) h hr
      | false => cases response_of_next (execSxSegNext_idle hact) h hr
    | sxReasmPush w1 w2 =>
      obtain ⟨htype, bound, hbound, hrest⟩ := pushPacket_refusedCapacity h hr
      exact ⟨bound, hbound, .inr ⟨groupOf w1, by rw [effectOf_sxReasmPush, if_pos htype], hrest⟩⟩
    | ump3Complete | ump3Start | ump3Continue | ump3End =>
      obtain ⟨-, bound, hbound, hrest⟩ := pushPacket_refusedCapacity h hr
      rw [groupOf_mt3Packet] at hrest
      exact ⟨bound, hbound, .inr ⟨_, rfl, hrest⟩⟩
    | sxReasmReset sel =>
      obtain _ | _ | g := sel
      · cases response_of_next (returnOk_eq s.clearAllRa .none) h hr
      · cases response_of_next (returnOk_eq s.clearAllRa .none) h hr
      · cases response_of_next (returnOk_eq (s.clearRa g) .none) h hr
    | reset => cases response_of_next (returnOk_eq (s.setSeg SegContext.idle).clearAllRa .none) h hr
    | _ => exact absurd rfl hp

/-! ## Received packets (R530 to R533) -/

section mt3Packet

variable (g : U4) (st : PacketStatus) (n : U4) (d0 d1 d2 d3 d4 d5 : Byte) (s : State)

/-- An MT 0x3 wire form is SX_REASM_PUSH of its words. -/
theorem exec_sxReasmPush_mt3Packet :
    pushPacket s (mt3Packet g st n d0 d1 d2 d3 d4 d5) =
      exec (.sxReasmPush (headWord 0x3 g st.code.toNat n d0.toNat d1.toNat)
        (bytesWord d2.toNat d3.toNat d4.toNat d5.toNat)) s := by
  rw [bytesWord_eq, show headWord 0x3 g st.code.toNat n d0.toNat d1.toNat = _ from headWord_eq 0x3 g st.code n d0 d1]
  rfl

variable {g n d0 d1 d2 d3 d4 d5}

/-- A wire form with valid operands is judged by its status and its context. -/
theorem pushPacket_mt3Packet (hn : n.toNat ≤ 6) (hd : ∀ x ∈ [d0, d1, d2, d3, d4, d5].take n.toNat, x.toNat < 0x80) :
    pushPacket s (mt3Packet g st n d0 d1 d2 d3 d4 d5) =
      pushValid s g st (([d0, d1, d2, d3, d4, d5].take n.toNat).map fun x => BitVec.ofNat 7 x.toNat) := by
  rw [← all_is7_iff] at hd
  have hv : packetValid (mt3Packet g st n d0 d1 d2 d3 d4 d5) = true := by
    rw [packetValid, bodyValid, countedSlots, msgType_mt3Packet, packetStatus?_mt3Packet, countOf_mt3Packet,
      slots_mt3Packet, hd]
    simpa using hn
  rw [pushPacket_valid hv (packetStatus?_mt3Packet ..), groupOf_mt3Packet, packetBytes, countedSlots, countOf_mt3Packet,
    slots_mt3Packet]
  simp only [ofNat_toNat_low7]

end mt3Packet

/-- Settles O50: each form's packet has the form's own status and is offered to the reassembler. -/
theorem packetWireForms : Obligations.PacketWireForms := by
  unfold Obligations.PacketWireForms
  intro g n d0 d1 d2 d3 d4 d5 s
  refine ⟨fun hn hd => ⟨fun hact => ⟨?_, ?_⟩, fun hact hcap => ?_⟩, exec_sxReasmPush_mt3Packet g .complete ..,
    exec_sxReasmPush_mt3Packet g .start .., exec_sxReasmPush_mt3Packet g .cont .., exec_sxReasmPush_mt3Packet g .fin ..⟩
  · exact (pushPacket_mt3Packet .complete s hn hd).trans (pushValid_idle_complete _ hact)
  · exact writesRa_of_setRa ((pushPacket_mt3Packet .start s hn hd).trans (pushValid_idle_start _ hact))
  · have hlen : (([d0, d1, d2, d3, d4, d5].take n.toNat).map fun x => (BitVec.ofNat 7 x.toNat : U7)).length = n.toNat := by
      rw [List.length_map, List.length_take_of_le hn]
    rw [← hlen, ← withinCapacity_iff] at hcap
    exact ⟨writesRa_of_setRa ((pushPacket_mt3Packet .cont s hn hd).trans (pushValid_active_cont _ hact hcap)),
      writesRa_of_clearRa ((pushPacket_mt3Packet .fin s hn hd).trans (pushValid_active_fin _ hact hcap))⟩

end Sys2Proof.Machine
end

section
/-! PROOFS. 44_diagnostic.md: HEX_FORMAT writes two upper-case digits for each byte and its separator between bytes only. -/

namespace Sys2Proof.Machine

/-! ## The digits of a byte (R580) -/

/-- The spec's arithmetic on codes names the digits of the usual upper-case table. -/
theorem hexDigit_eq_charAt {v : Nat} (h : v < 16) :
    hexDigit v = BitVec.ofNat 8 ("0123456789ABCDEF".toList.getD v '?').toNat := by
  decide +revert

@[simp] theorem length_hexDigits (b : Byte) : (hexDigits b).length = 2 := rfl

/-! ## The bytes and the separators (R580) -/

@[simp] theorem hexFormat_singleton (b : Byte) (sep : List Byte) : hexFormat [b] sep = hexDigits b := by
  rw [hexFormat, List.flatMap_nil, List.append_nil]

theorem hexFormat_cons_cons (b c : Byte) (rest sep : List Byte) :
    hexFormat (b :: c :: rest) sep = hexDigits b ++ sep ++ hexFormat (c :: rest) sep := by
  simp [hexFormat]

theorem hexFormat_eq_intercalate (sep : List Byte) : ∀ m, hexFormat m sep = sep.intercalate (m.map hexDigits)
  | [] => rfl
  | [b] => by simp
  | b :: c :: rest => by
    have ih := hexFormat_eq_intercalate sep (c :: rest)
    simp only [hexFormat_cons_cons, ih, List.map_cons, List.intercalate_cons_cons]

/-- Every byte takes two digits, and every byte but the first a separator. -/
theorem length_hexFormat (sep : List Byte) :
    ∀ m, (hexFormat m sep).length = 2 * m.length + sep.length * (m.length - 1)
  | [] => rfl
  | [b] => by simp
  | b :: c :: rest => by
    have ih := length_hexFormat sep (c :: rest)
    simp only [hexFormat_cons_cons, List.length_append, ih, length_hexDigits, List.length_cons, Nat.add_sub_cancel]
    ring

end Sys2Proof.Machine

namespace Sys2Proof

open Machine

/-- Settles O51: the model's digits are those of the table, and what joins them is `List.intercalate`. -/
theorem hexFormat : Obligations.HexFormat := by
  unfold Obligations.HexFormat
  intro m sep s digit out
  have hdigits : hexDigits = fun b => [digit (b.toNat / 16), digit (b.toNat % 16)] := funext fun b => by
    rw [hexDigits, hexDigit_eq_charAt (by omega), hexDigit_eq_charAt (by omega)]
  have hout : Machine.hexFormat m (separatorOrDefault sep) = out := by rw [hexFormat_eq_intercalate, hdigits]; rfl
  exact ⟨answers_of_returnOk (congrArg Result.bytes hout) rfl, hout ▸ length_hexFormat (separatorOrDefault sep) m⟩

end Sys2Proof
end

section
/-! PROOFS. 60_exceptions.md: the Events that an encoder refuses, what an error leaves of the contexts, and the errors that
each instruction can answer with. -/

namespace Sys2Proof.Machine

/-! ## Unsupported combinations (R604) -/

/-- The per-note controllers are the kinds without a MIDI 1.0 form (R160). -/
theorem midi1_eq_none_iff_perNoteController (k : Kind) :
    (classification k).midi1 = none ↔ k = .pncRegistered ∨ k = .pncAssignable := by
  cases k <;> simp [classification]

theorem only2_iff (e : Event) : only2 e ↔ (classification e.kind).midi1 = none ∨ has2Only e = true := by
  rw [midi1_eq_none_iff_perNoteController, only2, or_assoc]

/-- The framing flags are read for the SysEx kinds only (R300). -/
theorem toBytes_framing {e : Event} (he : e.isSysEx = false) (a b : Bool) : toBytes e a b = toBytes e true true := by
  cases e with
  | sysex7 | universalSysex7 => cases he
  | _ => rfl

theorem toBytes_ok {e : Event} (hwf : e.wf = true) (h : ¬ only2 e) (a b : Bool) : ∃ m, toBytes e a b = .ok m := by
  cases he : e.isSysEx with
  | true => exact ⟨_, toBytes_of_isSysEx he a b⟩
  | false =>
    obtain ⟨m, hm, -⟩ := fromBytes_toBytes hwf h
    exact ⟨m, (toBytes_framing he a b).trans hm⟩

/-- Settles O28: the Events that are refused are those of no MIDI 1.0 form, and every other one has its encoding. -/
theorem unsupportedCombinations : Obligations.UnsupportedCombinations := by
  unfold Obligations.UnsupportedCombinations
  intro e s hwf
  refine ⟨fun a b => ⟨fun h => ?_, fun h => ?_⟩, fun h => ?_, fun h => ?_, ?_⟩
  · obtain ⟨hbytes, -⟩ := unsupported_of_no_midi1_form ((only2_iff e).mp h)
    exact m1ToBytes_fails s hwf (hbytes _ _)
  · obtain ⟨m, hm⟩ := toBytes_ok hwf h (framing a) (framing b)
    exact ⟨m, m1ToBytes_answers s hwf hm⟩
  · obtain ⟨-, hwords⟩ := unsupported_of_no_midi1_form ((only2_iff e).mp h)
    exact umpToWords_fails s hwf hwords
  · obtain ⟨ws, hws, -⟩ := fromWords_toWords_p1 hwf h
    exact ⟨ws, umpToWords_answers s hwf hws⟩
  · obtain ⟨ws, hws, -⟩ := toWords_p2_row e
    exact ⟨ws, umpToWords_answers s hwf hws⟩

/-! ## What an error leaves (R608) -/

/-- A command that ends with a response ends in the state that its writes and that response make. -/
theorem eq_withResponse_of_next {a : Answer} {u t : State} {r r' : Response} (h : a = .next (u.withResponse r))
    (ht : a = .next t) (hr : t.response = some r') : t = u.withResponse r' := by
  rw [response_of_next h ht hr]
  exact next_inj (ht.symm.trans h)

/-- `t` is `u` with the error `k` as its response, one of the two that a packet can meet (R520, R523). -/
def PacketError (u t : State) (k : ErrorKind) : Prop :=
  k ∈ [.malformedWireData, .refusedCapacity] ∧ t = u.withResponse (.error k)

theorem PacketError.of_next {a : Answer} {u t : State} {k k' : ErrorKind} (h : a = .next (u.withResponse (.error k')))
    (hk : k' ∈ [ErrorKind.malformedWireData, .refusedCapacity]) (ht : a = .next t) (hr : t.response = some (.error k)) :
    PacketError u t k := by
  cases response_of_next h ht hr
  exact ⟨hk, eq_withResponse_of_next h ht hr⟩

/-- The error rows of R521 leave the contexts or clear the packet's own. -/
theorem pushValid_error {s t : State} {g : U4} {st : PacketStatus} {b : List U7} {k : ErrorKind}
    (h : pushValid s g st b = .next t) (hr : t.response = some (.error k)) :
    PacketError s t k ∨ PacketError (s.clearRa g) t k := by
  cases hact : (s.raOf g).active with
  | false =>
    cases st with
    | complete => cases response_of_next (pushValid_idle_complete b hact) h hr
    | start => cases response_of_next (pushValid_idle_start b hact) h hr
    | cont => exact .inl (.of_next (pushValid_idle_cont b hact) (by decide) h hr)
    | fin => exact .inl (.of_next (pushValid_idle_fin b hact) (by decide) h hr)
  | true =>
    cases st with
    | complete => exact .inr (.of_next (pushValid_active_complete b hact) (by decide) h hr)
    | start => exact .inr (.of_next (pushValid_active_start b hact) (by decide) h hr)
    | cont =>
      cases hcap : s.withinCapacity ((s.raOf g).buf.length + b.length) with
      | true => cases response_of_next (pushValid_active_cont b hact hcap) h hr
      | false => exact .inr (.of_next (pushValid_active_beyond b hact (.inl rfl) hcap) (by decide) h hr)
    | fin =>
      cases hcap : s.withinCapacity ((s.raOf g).buf.length + b.length) with
      | true => cases response_of_next (pushValid_active_fin b hact hcap) h hr
      | false => exact .inr (.of_next (pushValid_active_beyond b hact (.inr rfl) hcap) (by decide) h hr)

/-- A packet that meets an error leaves the contexts, or is of message type 0x3 and clears its own. -/
theorem pushPacket_error {s t : State} {p : Packet} {k : ErrorKind} (h : pushPacket s p = .next t)
    (hr : t.response = some (.error k)) :
    PacketError s t k ∨ (msgType p.w1 = 0x3#4 ∧ PacketError (s.clearRa (groupOf p.w1)) t k) := by
  by_cases htype : msgType p.w1 = 0x3#4
  · cases hbody : bodyValid p with
    | false => exact .inr ⟨htype, .of_next (pushPacket_invalid htype hbody) (by decide) h hr⟩
    | true =>
      have hv : packetValid p = true := by simp [packetValid, htype, hbody]
      obtain ⟨st, hst⟩ := packetValid_status hv
      exact (pushValid_error ((pushPacket_valid hv hst).symm.trans h) hr).imp_right fun he => ⟨htype, he⟩
  · exact .inl (.of_next (pushPacket_otherType htype) (by decide) h hr)

/-- An instruction that completes was well formed (R73). -/
theorem wf_of_exec_next {i : Instr} {s t : State} (h : exec i s = .next t) : i.wf = true := by
  cases hwf : i.wf with
  | true => rfl
  | false =>
    obtain ⟨op, hrefused⟩ := exec_illTyped hwf s
    cases hrefused.symm.trans h

/-- What an error of `i` can leave: the contexts as they were, or the one context that `i` writes cleared. -/
def ErrorLeaves (i : Instr) (s t : State) (k : ErrorKind) : Prop :=
  t = s.withResponse (.error k) ∨ ∃ g, effectOf i = .context g ∧ t = (s.clearRa g).withResponse (.error k)

/-- An instruction that offers a packet of message type 0x3 writes the context of the packet's group. -/
theorem errorLeaves_of_pushPacket {i : Instr} {s t : State} {p : Packet} {k : ErrorKind}
    (hi : msgType p.w1 = 0x3#4 → effectOf i = .context (groupOf p.w1)) (h : pushPacket s p = .next t)
    (hr : t.response = some (.error k)) : ErrorLeaves i s t k := by
  obtain ⟨-, rfl⟩ | ⟨htype, -, rfl⟩ := pushPacket_error h hr
  · exact .inl rfl
  · exact .inr ⟨_, hi htype, rfl⟩

/-- Of the instructions that write a context only a load and a packet can fail. -/
theorem exec_error {i : Instr} {s t : State} {k : ErrorKind} (h : exec i s = .next t)
    (hr : t.response = some (.error k)) : ErrorLeaves i s t k := by
  by_cases hp : isPure i = true
  · obtain ⟨r, hanswers⟩ := answersEverywhere_of_isPure hp (wf_of_exec_next h)
    exact .inl (eq_withResponse_of_next (hanswers s) h hr)
  · cases i with
    | sxSegLoad d g =>
      cases hc : s.withinCapacity d.length with
      | true => cases response_of_next (execSxSegLoad_within g hc) h hr
      | false => exact .inl (eq_withResponse_of_next (execSxSegLoad_beyond g hc) h hr)
    | sxSegNext =>
      cases hact : s.seg.active with
      | true => cases response_of_next (execSxSegNext_active hact) h hr
      | false => cases response_of_next (execSxSegNext_idle hact) h hr
    | sxReasmPush w1 w2 =>
      exact errorLeaves_of_pushPacket (p := ⟨w1, w2⟩)
        (fun htype => by rw [effectOf_sxReasmPush, if_pos htype]) h hr
    | ump3Complete | ump3Start | ump3Continue | ump3End =>
      exact errorLeaves_of_pushPacket (fun _ => by rw [groupOf_mt3Packet]; rfl) h hr
    | sxReasmReset sel =>
      obtain _ | _ | g := sel
      · cases response_of_next (returnOk_eq s.clearAllRa .none) h hr
      · cases response_of_next (returnOk_eq s.clearAllRa .none) h hr
      · cases response_of_next (returnOk_eq (s.clearRa g) .none) h hr
    | reset => cases response_of_next (returnOk_eq (s.setSeg SegContext.idle).clearAllRa .none) h hr
    | _ => exact absurd rfl hp

/-- Settles O55: an error leaves everything but the response port, or clears the context that the instruction writes. -/
theorem errorsWriteOnlyTheirContext : Obligations.ErrorsWriteOnlyTheirContext := by
  unfold Obligations.ErrorsWriteOnlyTheirContext
  intro i s t k h hr
  obtain rfl | ⟨g, heffect, rfl⟩ := exec_error h hr
  · exact ⟨rfl, rfl, fun _ => .inl rfl⟩
  · refine ⟨rfl, rfl, fun g' => ?_⟩
    by_cases hg : g' = g
    · subst hg
      exact .inr ⟨heffect, State.raOf_clearRa_same s g'⟩
    · exact .inl (State.raOf_clearRa_ne s hg)

/-! ## The errors of each instruction (R601) -/

/-- `a` ends with no error but those of `ks`. -/
def FailsOnlyWith (ks : List ErrorKind) (a : Answer) : Prop :=
  ∀ t k, a = .next t → t.response = some (.error k) → k ∈ ks

theorem failsOnlyWith_returnOk (ks : List ErrorKind) (s : State) (v : Result) : FailsOnlyWith ks (returnOk s v) := by
  intro t k h hr
  cases response_of_next (returnOk_eq s v) h hr

theorem failsOnlyWith_answer {k : ErrorKind} {x : Except ErrorKind Result} (s : State)
    (hx : ∀ k', x = .error k' → k' = k) : FailsOnlyWith [k] (answer s x) := by
  intro t k' h hr
  have hresponse := response_of_next (answer_eq s x) h hr
  cases x with
  | ok v => cases hresponse
  | error k'' => exact List.mem_singleton.mpr (hx k' (congrArg Except.error (Response.error.inj hresponse).symm))

/-- The result that a computation is packed into adds no error. -/
theorem failsOnlyWith_map {α : Type} {k : ErrorKind} {x : Except ErrorKind α} (s : State) (f : α → Result)
    (hx : ∀ k', x = .error k' → k' = k) : FailsOnlyWith [k] (answer s (x.map f)) := by
  refine failsOnlyWith_answer s fun k' h => ?_
  cases x with
  | ok a => cases h
  | error k'' => cases h; exact hx k' rfl

/-- The command boundary adds no error: what it refuses ends in no next state. -/
theorem FailsOnlyWith.boundary {ks : List ErrorKind} {a : Answer} (h : FailsOnlyWith ks a) (op : Byte) (typed : Bool) :
    FailsOnlyWith ks (atBoundary op typed a) := fun t k ht => h t k (atBoundary_next ht).2

theorem buildEvent_error {raw : RawEvent} {k : ErrorKind} (h : buildEvent raw = .error k) : k = .rangeError := by
  obtain ⟨hok, hfail⟩ := buildEvent_checks raw
  by_cases hin : raw.InRange
  · obtain ⟨e, he, -⟩ := hok hin
    cases he.symm.trans h
  · cases (hfail hin).symm.trans h
    rfl

/-- R208, R209: only the divisor is checked. -/
theorem failsOnlyWith_division (w : Width) (b q : Nat) (s : State) :
    FailsOnlyWith [.rangeError] (answer s (if b = 0 then .error .rangeError else .ok (.bounded w q))) := by
  refine failsOnlyWith_answer s fun k h => ?_
  split at h <;> cases h
  rfl

theorem failsOnlyWith_execSxSegLoad (d : List U7) (g : U4) (s : State) :
    FailsOnlyWith [.refusedCapacity] (execSxSegLoad d g s) := by
  intro t k h hr
  cases hc : s.withinCapacity d.length with
  | true => cases response_of_next (execSxSegLoad_within g hc) h hr
  | false => cases response_of_next (execSxSegLoad_beyond g hc) h hr; exact List.mem_singleton_self _

theorem failsOnlyWith_execSxSegNext (s : State) : FailsOnlyWith [] (execSxSegNext s) := by
  intro t k h hr
  cases hact : s.seg.active with
  | true => cases response_of_next (execSxSegNext_active hact) h hr
  | false => cases response_of_next (execSxSegNext_idle hact) h hr

theorem failsOnlyWith_pushPacket (s : State) (p : Packet) :
    FailsOnlyWith [.malformedWireData, .refusedCapacity] (pushPacket s p) := by
  intro t k h hr
  obtain ⟨hk, -⟩ | ⟨-, hk, -⟩ := pushPacket_error h hr
  · exact hk
  · exact hk

theorem exec_failsOnlyWith (i : Instr) (s : State) : FailsOnlyWith (errorsOf i) (exec i s) := by
  cases i with
  | biFail => exact failsOnlyWith_answer s fun _ => inRange_error
  | biAdd | biSub | biMul => exact (failsOnlyWith_answer s fun _ => inRange_error).boundary _ _
  | biDiv | biRem => exact (failsOnlyWith_division _ _ _ s).boundary _ _
  | biCmp | vvFromM1 | vvFromM2 | vvViewM1 | vvViewM2 | sxFrame => exact (failsOnlyWith_returnOk _ s _).boundary _ _
  | biExact | biClamp | biTrunc | sxChunk | hexFormat | reset => exact failsOnlyWith_returnOk _ _ _
  | m1TuneRequest | ump1TuneRequest | ump4ChannelPressure | ump4PitchBend =>
    exact failsOnlyWith_returnOk _ s (.event _)
  | evMake => exact failsOnlyWith_map s _ fun _ => buildEvent_error
  | m1ToBytes => exact (failsOnlyWith_map s _ fun _ => toBytes_error).boundary _ _
  | umpToWords => exact (failsOnlyWith_map s _ fun _ => toWords_error).boundary _ _
  | m1FromBytes => exact failsOnlyWith_map s _ fun _ => fromBytes_error
  | umpFromWords => exact failsOnlyWith_map s _ fun _ => fromWords_error
  | sxParse => exact failsOnlyWith_map s _ fun _ => parse_error
  | sxUnchunk => exact failsOnlyWith_map s _ fun _ => unchunk_error
  | sxSegLoad d g => exact failsOnlyWith_execSxSegLoad d g s
  | sxSegNext => exact failsOnlyWith_execSxSegNext s
  | sxReasmReset sel => obtain _ | _ | g := sel <;> exact failsOnlyWith_returnOk _ _ _
  | sxReasmPush | ump3Complete | ump3Start | ump3Continue | ump3End => exact failsOnlyWith_pushPacket s _
  | m1NoteOff | m1NoteOn | m1PolyPressure | m1ControlChange | m1PitchBend | ump2NoteOff | ump2NoteOn
  | ump2PolyPressure | ump2ControlChange | ump2PitchBend => exact failsOnlyWith_map s _ fun _ => with7x2_error
  | m1ProgramChange | m1ChannelPressure | ump2ProgramChange | ump2ChannelPressure | ump4PncRegistered
  | ump4PncAssignable | ump4NoteOff | ump4NoteOn | ump4PolyPressure | ump4ControlChange =>
    exact failsOnlyWith_map s _ fun _ => with7_error
  | m1Sysex => exact failsOnlyWith_map s _ fun _ => sysexOfBytes_error
  | ump4ProgramChange => exact failsOnlyWith_map s _ fun _ => mt4ProgramChange_error

/-- Settles O56: an instruction that completes has one response, whose error is one of its computation, and a refusal for
capacity has met a bound. -/
theorem errorStatuses : Obligations.ErrorStatuses := by
  unfold Obligations.ErrorStatuses
  refine ⟨fun _ => rfl, rfl, rfl, rfl, rfl, fun i s t h => ⟨?_, fun hr => ?_⟩⟩
  · obtain ⟨t', r, h', hr, -⟩ := exec_answersOnce (wf_of_exec_next h) s
    obtain rfl := next_inj (h'.symm.trans h)
    cases r with
    | ok v => exact .inl ⟨v, hr⟩
    | error k => exact .inr ⟨k, exec_failsOnlyWith i s t' k h hr, hr⟩
  · obtain ⟨bound, hbound, -⟩ := capacityRefusals i s t h hr
    rw [hbound]
    nofun

end Sys2Proof.Machine
end

section
/-! PROOFS. 70_reset_and_hazards.md: RESET brings every context back to its reset value, the segmenter and the reassembler
read and write their own contexts only, and the bounds of what the decoders and the reassembler give. -/

namespace Sys2Proof.Machine

/-! ## RESET (R700, R701) -/

/-- Settles O11: RESET writes the contexts of the reset state and nothing else but the response. -/
theorem resetGivesTheResetState : Obligations.ResetGivesTheResetState := by
  unfold Obligations.ResetGivesTheResetState
  exact ⟨rfl, State.raOf_reset, fun s => ⟨_, returnOk_eq (s.setSeg SegContext.idle).clearAllRa .none, rfl, rfl,
    State.raOf_clearAllRa (s.setSeg SegContext.idle), rfl, rfl⟩⟩

/-! ## The two contexts (R705) -/

/-- In every state with this bound and this `SEG`, `run` leaves the same `SEG`, answers the same and changes nothing else. -/
def SegmenterOnly (bound : Option Nat) (own : SegContext) (run : State → Answer) : Prop :=
  ∃ c r, ∀ s : State, s.pSxMax = bound → s.seg = own → run s = .next ((s.setSeg c).withResponse r)

/-- In every state with this bound and these reassembly contexts, `run` leaves the same contexts, answers the same and
changes nothing else. -/
def ReassemblerOnly (bound : Option Nat) (own : Vector ReasmContext Config.groups) (run : State → Answer) : Prop :=
  ∃ v r, ∀ s : State, s.pSxMax = bound → s.ra = own → run s = .next (State.withResponse { s with ra := v } r)

theorem execSxSegLoad_segmenterOnly (bound : Option Nat) (own : SegContext) (d : List U7) (g : U4) :
    SegmenterOnly bound own (execSxSegLoad d g) := by
  by_cases hcap : withinBound bound d.length
  · exact ⟨segLoaded d g, .ok .none, fun s hs _ =>
      execSxSegLoad_within g (by rwa [withinCapacity_iff, hs])⟩
  · refine ⟨own, .error .refusedCapacity, fun s hs hown => ?_⟩
    subst hown
    exact execSxSegLoad_beyond g (by rwa [withinCapacity_eq_false, hs])

theorem execSxSegNext_segmenterOnly (bound : Option Nat) (own : SegContext) :
    SegmenterOnly bound own execSxSegNext := by
  cases hact : own.active with
  | true =>
    refine ⟨segAdvanced own, .ok (.segOut (.packet (stride own.data own.group own.pos))), fun s _ hown => ?_⟩
    subst hown
    exact execSxSegNext_active hact
  | false =>
    refine ⟨own, .ok (.segOut .done), fun s _ hown => ?_⟩
    subst hown
    exact execSxSegNext_idle hact

/-- The segmenter commands are SX_SEG_LOAD and SX_SEG_NEXT. -/
theorem exec_segmenterOnly {i : Instr} (h : effectOf i = .segmenter) (bound : Option Nat) (own : SegContext) :
    SegmenterOnly bound own (exec i) := by
  cases i with
  | sxSegLoad d g => exact execSxSegLoad_segmenterOnly bound own d g
  | sxSegNext => exact execSxSegNext_segmenterOnly bound own
  | sxReasmPush w1 w2 =>
    rw [effectOf_sxReasmPush] at h
    split at h <;> cases h
  | sxReasmReset sel => obtain _ | _ | g := sel <;> cases h
  | _ => cases h

/-- A packet reads and writes one of the reassembly contexts. -/
theorem pushPacket_reassemblerOnly (bound : Option Nat) (own : Vector ReasmContext Config.groups) (p : Packet) :
    ReassemblerOnly bound own (pushPacket · p) := by
  obtain ⟨c, r, hnext, -⟩ := pushPacket_ownContextOnly bound (own[(groupOf p.w1).toNat]'(groupOf p.w1).isLt) p
  refine ⟨own.set (groupOf p.w1).toNat c (groupOf p.w1).isLt, r, fun s hs hown => ?_⟩
  subst hown
  exact hnext s hs rfl

theorem execSxReasmReset_reassemblerOnly (bound : Option Nat) (own : Vector ReasmContext Config.groups)
    (sel : Option ReasmSel) : ReassemblerOnly bound own (execSxReasmReset sel) := by
  obtain _ | _ | g := sel
  · exact ⟨idleContexts, .ok .none, fun s _ _ => returnOk_eq s.clearAllRa .none⟩
  · exact ⟨idleContexts, .ok .none, fun s _ _ => returnOk_eq s.clearAllRa .none⟩
  · refine ⟨own.set g.toNat ReasmContext.idle g.isLt, .ok .none, fun s _ hown => ?_⟩
    subst hown
    exact returnOk_eq (s.clearRa g) .none

/-- The reassembler commands are SX_REASM_PUSH, SX_REASM_RESET and the MT 0x3 wire forms. -/
theorem exec_reassemblerOnly {i : Instr} (h : (∃ g, effectOf i = .context g) ∨ effectOf i = .contexts)
    (bound : Option Nat) (own : Vector ReasmContext Config.groups) : ReassemblerOnly bound own (exec i) := by
  cases i with
  | sxReasmPush | ump3Complete | ump3Start | ump3Continue | ump3End => exact pushPacket_reassemblerOnly bound own _
  | sxReasmReset sel => exact execSxReasmReset_reassemblerOnly bound own sel
  | _ => obtain ⟨_, h⟩ | h := h <;> cases h

/-- Settles O54: what a segmenter command leaves and answers comes from `SEG` and the bound alone, and what a reassembler
command does from the reassembly contexts and the bound. -/
theorem segmenterAndReassemblerAreIndependent : Obligations.SegmenterAndReassemblerAreIndependent := by
  unfold Obligations.SegmenterAndReassemblerAreIndependent
  refine fun i s s' _ hmax => ⟨fun heffect hseg => ?_, fun heffect hra => ?_⟩
  · obtain ⟨c, r, hnext⟩ := exec_segmenterOnly heffect s.pSxMax s.seg
    exact ⟨_, _, hnext s rfl rfl, hnext s' hmax.symm hseg.symm, rfl, rfl, rfl⟩
  · obtain ⟨v, r, hnext⟩ := exec_reassemblerOnly heffect s.pSxMax s.ra
    exact ⟨_, _, hnext s rfl rfl, hnext s' hmax.symm hra.symm, rfl, rfl, rfl⟩

/-! ## What SX_UNCHUNK gives (R516, R708) -/

theorem length_unchunk_le {ps : List Packet} {d : List U7} (h : unchunk ps = .ok d) : d.length ≤ 6 * ps.length := by
  obtain ⟨hvalid, -, -, rfl⟩ := (unchunk_ok_iff ps d).mp h
  have hsix : ∀ n ∈ ps.map (List.length ∘ packetBytes), n ≤ 6 := by
    intro n hn
    obtain ⟨p, hp, rfl⟩ := List.mem_map.mp hn
    have hp := List.all_eq_true.mp hvalid p hp
    exact (length_packetBytes hp).trans_le (cnt_le_six hp)
  have hsum := List.sum_le_card_nsmul _ 6 hsix
  rw [List.length_map, smul_eq_mul, Nat.mul_comm] at hsum
  rwa [List.length_flatMap]

/-! ## The decoded SysEx Events (R313, R430, R708) -/

theorem length_frame_of_parse {m : List Byte} {g : U4} {e : Event} (h : parse m g = .ok e) :
    (frame e).length = m.length := by
  obtain ⟨-, -, -, rfl⟩ := parse_ok_iff.mp h
  rw [List.length_map]

theorem with7_not_isSysEx {b : Byte} {e e' : Event} (he : e.isSysEx = false) (h : with7 b e = .ok e') :
    e'.isSysEx = false :=
  (with7_ok_iff.mp h).2 ▸ he

theorem with7x2_not_isSysEx {b c : Byte} {e e' : Event} (he : e.isSysEx = false) (h : with7x2 b c e = .ok e') :
    e'.isSysEx = false :=
  (with7x2_ok_iff.mp h).2 ▸ he

theorem channel3OfBytes_not_isSysEx {g : U4} {b0 d1 d2 : Byte} {e : Event} (h : channel3OfBytes g b0 d1 d2 = .ok e) :
    e.isSysEx = false := by
  unfold channel3OfBytes at h
  split at h
  iterate 5 exact with7x2_not_isSysEx rfl h
  cases h

theorem channel2OfBytes_not_isSysEx {g : U4} {b0 d1 : Byte} {e : Event} (h : channel2OfBytes g b0 d1 = .ok e) :
    e.isSysEx = false := by
  unfold channel2OfBytes at h
  split at h
  iterate 2 exact with7_not_isSysEx rfl h
  cases h

/-- R301: only a message that starts with 0xF0 decodes to a SysEx Event. -/
theorem fromBytes_not_isSysEx {g : U4} {b0 : Byte} {rest : List Byte} {e : Event} (hb : b0 ≠ 0xF0#8)
    (h : fromBytes (b0 :: rest) g = .ok e) : e.isSysEx = false := by
  simp only [fromBytes, if_neg hb] at h
  split at h
  · split at h
    · exact channel3OfBytes_not_isSysEx h
    · cases h
  · split at h
    · split at h
      · exact channel2OfBytes_not_isSysEx h
      · cases h
    · split at h
      · split at h
        · cases h
          rfl
        · cases h
      · cases h

/-- R313: around the data sequence of a decoded SysEx Event stand the two framing bytes. -/
theorem length_frame_of_fromBytes {m : List Byte} {g : U4} {e : Event} (h : fromBytes m g = .ok e)
    (he : e.isSysEx = true) : (frame e).length + 2 = m.length := by
  cases m with
  | nil => cases h
  | cons b0 rest =>
    by_cases hb : b0 = 0xF0#8
    · subst hb
      rw [fromBytes_sysex] at h
      by_cases hrest : ∃ d, rest = d ++ [0xF7#8] ∧ d.all is7 = true
      · obtain ⟨d, rfl, h7⟩ := hrest
        rw [sysexOfBytes_framed g d h7] at h
        simp [length_frame_of_parse h]
      · cases (sysexOfBytes_unframed g hrest).symm.trans h
    · cases he.symm.trans (fromBytes_not_isSysEx hb h)

theorem mt1OfWord_not_isSysEx {w : Word} {e : Event} (h : mt1OfWord w = .ok e) : e.isSysEx = false := by
  unfold mt1OfWord at h
  split at h <;> cases h
  rfl

theorem mt2OfWord_not_isSysEx {w : Word} {e : Event} (h : mt2OfWord w = .ok e) : e.isSysEx = false := by
  unfold mt2OfWord at h
  split at h
  iterate 4 exact with7x2_not_isSysEx rfl h
  iterate 2 exact with7_not_isSysEx rfl h
  exact with7x2_not_isSysEx rfl h
  cases h

theorem mt4ProgramChange_not_isSysEx {g c : U4} {r o p r2 m l : Byte} {e : Event}
    (h : mt4ProgramChange g c r o p r2 m l = .ok e) : e.isSysEx = false := by
  unfold mt4ProgramChange at h
  split at h
  · split at h <;> cases h
    rfl
  · exact with7_not_isSysEx rfl h

theorem mt4OfWords_not_isSysEx {w1 w2 : Word} {e : Event} (h : mt4OfWords w1 w2 = .ok e) : e.isSysEx = false := by
  unfold mt4OfWords at h
  split at h
  iterate 6 exact with7_not_isSysEx rfl h
  exact mt4ProgramChange_not_isSysEx h
  iterate 2
    cases h
    rfl
  cases h

/-- R401: only packets of message type 0x3 decode to a SysEx Event. -/
theorem sysexOfPackets_of_fromWords {ws : List Word} {e : Event} (h : fromWords ws = .ok e) (he : e.isSysEx = true) :
    ∃ g, sysexOfPackets (pairWords ws) g = .ok e := by
  unfold fromWords at h
  split at h
  · cases h
  · split at h
    · split at h
      · cases he.symm.trans (mt1OfWord_not_isSysEx h)
      · cases h
    · split at h
      · cases he.symm.trans (mt2OfWord_not_isSysEx h)
      · cases h
    · split at h
      · exact ⟨_, h⟩
      · cases h
    · split at h
      · cases he.symm.trans (mt4OfWords_not_isSysEx h)
      · cases h
    · cases h

theorem length_frame_of_sysexOfPackets {ps : List Packet} {g : U4} {e : Event} (h : sysexOfPackets ps g = .ok e) :
    (frame e).length ≤ 6 * ps.length := by
  unfold sysexOfPackets at h
  split at h
  · cases hu : unchunk ps with
    | error k => rw [hu] at h; cases h
    | ok d =>
      rw [hu] at h
      have hlen := length_frame_of_parse h
      rw [List.length_map] at hlen
      exact hlen.trans_le (length_unchunk_le hu)
  · cases h

theorem two_mul_length_pairWords_le : ∀ ws : List Word, 2 * (pairWords ws).length ≤ ws.length
  | [] | [_] => Nat.zero_le _
  | _ :: _ :: ws => by
    have ih := two_mul_length_pairWords_le ws
    simp only [pairWords, List.length_cons]
    omega

/-- R430: each packet is two words, and holds at most six bytes. -/
theorem length_frame_of_fromWords {ws : List Word} {e : Event} (h : fromWords ws = .ok e) (he : e.isSysEx = true) :
    (frame e).length ≤ 3 * ws.length := by
  obtain ⟨g, hpackets⟩ := sysexOfPackets_of_fromWords h he
  have hlen := length_frame_of_sysexOfPackets hpackets
  have hpairs := two_mul_length_pairWords_le ws
  omega

/-! ## Reassembled messages (R523, R708) -/

/-- No step writes `P_SX_MAX`. -/
theorem pSxMax_of_step {s t : State} (h : step s = .next t) : t.pSxMax = s.pSxMax := by
  obtain ⟨-, rfl⟩ | ⟨input, rest, i, -, -, hexec⟩ := step_next h
  · rfl
  · obtain ⟨t', hnext, hmax, -⟩ := exec_leaves (wf_of_exec_next hexec) (s.withPort rest)
    exact next_inj (hexec.symm.trans hnext) ▸ hmax

/-- Settles O57: a packet has at most six bytes, a SysEx message is its data sequence in framing bytes or in packets, and the
invariant that a step keeps bounds the message on the response port. -/
theorem outputBounds : Obligations.OutputBounds := by
  unfold Obligations.OutputBounds
  refine fun s t => ⟨fun ps d h => ?_, fun m grp e h => ?_, fun ws e h => ?_, fun hinv hstep g d hr => ?_⟩
  · exact length_unchunk_le (ok_of_answers (fun _ _ => Result.data.inj) h rfl)
  · exact length_frame_of_fromBytes (ok_of_answers (fun _ _ => Result.event.inj) h rfl)
  · exact length_frame_of_fromWords (ok_of_answers (fun _ _ => Result.event.inj) h rfl)
  · rw [← pSxMax_of_step hstep]
    exact (everyStepKeepsTheInvariant s t hinv hstep).result _ hr

end Sys2Proof.Machine
end
